-- ==== Sys2Proof/Word.lean ====
section
/-! DEFINITION. The word types of the RMII decoder core: the fixed widths of 00_scope.md R8 and 30_encoding.md R70/R71/R80. Every value is unsigned and bit 0 is the least significant bit (00_scope.md R12). -/

namespace Sys2Proof

/-- A sample index (00_scope.md R8: 64 bits, unsigned). -/
abbrev Index := BitVec 64

/-- A 2-bit symbol `{D1, D0}` (00_scope.md R8, 20_memory.md R53). -/
abbrev Dibit := BitVec 2

/-- A byte, four dibits (00_scope.md R8). -/
abbrev Byte := BitVec 8

/-- The saturating byte and body counters (00_scope.md R8, CNT_W = 32). -/
abbrev Count := BitVec 32

/-- The command word `W = {rst, in_cmd[5:0]}` (30_encoding.md R71). -/
abbrev CommandWord := BitVec 7

/-- One lane of the event port (30_encoding.md R80). -/
abbrev EventWord := BitVec 260

end Sys2Proof
end

