-- ==== Sys2Proof/Machine/Operands.lean ====
section
/-! DEFINITION. Fields and arithmetic of the data units: the accumulator's layout (10_state.md R27), byte assembly (20_memory.md R52), saturation (00_scope.md R13), zero extension (43_error_classifier.md R180). -/

namespace Sys2Proof.Machine

/-- `acc_bits[2k+1 : 2k] <- dibit` (42_frame_assembler.md R133): the k-th two-bit entry replaced, the others kept. -/
def setDibit (bits : BitVec 6) (k : BitVec 2) (dibit : Dibit) : BitVec 6 :=
  (bits &&& ~~~(0b11#6 <<< (2 * k.toNat))) ||| (dibit.zeroExtend 6 <<< (2 * k.toNat))

/-- `acc_bits[2k+1 : 2k]` (10_state.md R27, R36). -/
def getDibit (bits : BitVec 6) (k : Nat) : Dibit :=
  bits.extractLsb' (2 * k) 2

/-- `value = {q3, acc_bits[5:0]}` (20_memory.md R52, 42_frame_assembler.md R134): the first dibit in bits 1:0. -/
def assembleByte (bits : BitVec 6) (dibit : Dibit) : Byte :=
  dibit ++ bits

/-- The k-th dibit of a byte, least significant first (20_memory.md R52, 30_encoding.md R92). -/
def byteDibit (value : Byte) (k : Nat) : Dibit :=
  value.extractLsb' (2 * k) 2

/-- `sat_inc(c)`: `c + 1` below `2^32 - 1`, else `c` (00_scope.md R13). -/
def satInc (c : Count) : Count :=
  if c < 0xFFFFFFFF then c + 1 else c

/-- `zext64` of an accumulator count (43_error_classifier.md R180). -/
def zextDibits (n : BitVec 2) : BitVec 64 := n.zeroExtend 64

/-- `zext64` of a byte counter (43_error_classifier.md R180). -/
def zextCount (n : Count) : BitVec 64 := n.zeroExtend 64

/-- The Start-Frame-Delimiter value (00_scope.md R9). -/
def sfdByte : Byte := 0xD5

/-- The preamble byte value (00_scope.md R9). No rule compares with it: every byte before the SFD is plausible preamble (42_frame_assembler.md R135). -/
def preambleByte : Byte := 0x55

end Sys2Proof.Machine
end

