-- ==== Sys2Proof/Config.lean ====
section
/-! DEFINITION. The configuration inputs of the core (00_scope.md R10, 30_encoding.md R76). The spec leaves all four OPEN (D13, D14, D15): the model never fixes one. They stand in State as data, so a statement about every state is a statement about every configuration. There is no free value: the spec gives every command's result. -/

namespace Sys2Proof

/-- The four static inputs (00_scope.md R10). -/
structure Config where
  /-- `PREAMBLE_BUDGET`: non-SFD bytes a frame may carry before its SFD without MISSING_SFD (R182). -/
  preambleBudget : Count
  /-- `RUNT_MIN_BYTES`: least body bytes of a frame that is no runt; 0 turns the check off (R183). -/
  runtMinBytes : Count
  /-- `EDGE_DELTA_MIN`: least plausible distance of consecutive clock edges (R185). -/
  edgeDeltaMin : Index
  /-- `EDGE_DELTA_MAX`: greatest plausible distance of consecutive clock edges (R185). -/
  edgeDeltaMax : Index
deriving DecidableEq, Repr

/-- The reference configuration REF of the spec's vectors (92_eei_decisions.md D26). -/
def Config.ref : Config :=
  { preambleBudget := 7, runtMinBytes := 64, edgeDeltaMin := 2, edgeDeltaMax := 4 }

end Sys2Proof
end

