-- ==== Sys2Proof/Machine/Event.lean ====
section
/-! DEFINITION. The typed events of the event port and their 260-bit words (30_encoding.md R78 to R90). -/

namespace Sys2Proof.Machine

/-- FrameStatus (30_encoding.md R88). `inProgress` is never in a FrameEnd. The residual dibits of CompleteUnaligned stand in the event's `res_count` and `res_bits` (R86). -/
inductive FrameStatus where
  | inProgress
  | completeAligned
  | completeUnaligned
  | falseCarrier
  | truncated
deriving DecidableEq, Repr

/-- ErrorMarker kinds (30_encoding.md R89). `collisionExtension` is reserved and never emitted (R190). -/
inductive MarkerKind where
  | falseCarrier
  | missingSfd
  | dribble
  | truncated
  | unexpectedEdgeSpacing
  | runtFrame
  | collisionExtension
deriving DecidableEq, Repr

/-- An event (30_encoding.md R81 to R87): its type, its sample-index range and its payload. -/
inductive Event where
  /-- Type 0, range `[idx, idx]` (R82). -/
  | clockEdge (idx : Index)
  /-- Type 1, range `[idx, idx]` (R83). -/
  | symbolDecoded (idx : Index) (dibit : Dibit) (ctrl : Bool)
  /-- Type 2 (R84): from the byte's first dibit to its fourth. -/
  | byteDecoded (first last : Index) (value : Byte) (frameRef : Index)
  /-- Type 3, range `[idx, idx]` (R85). -/
  | frameStart (idx : Index)
  /-- Type 4 (R86): the frame's `start_index` and `end_index`, then the payload. -/
  | frameEnd (first last : Index) (status : FrameStatus) (resCount : BitVec 2) (resBits : BitVec 6)
      (byteCount bodyCount : Count) (sfdSeen : Bool)
  /-- Type 5 (R87). -/
  | errorMarker (first last : Index) (kind : MarkerKind) (detail : BitVec 64)
deriving DecidableEq, Repr

/-- The status codes of R88. -/
def FrameStatus.code : FrameStatus → BitVec 3
  | .inProgress => 0
  | .completeAligned => 1
  | .completeUnaligned => 2
  | .falseCarrier => 3
  | .truncated => 4

/-- The kind codes of R89. -/
def MarkerKind.code : MarkerKind → BitVec 4
  | .falseCarrier => 1
  | .missingSfd => 2
  | .dribble => 3
  | .truncated => 4
  | .unexpectedEdgeSpacing => 5
  | .runtFrame => 6
  | .collisionExtension => 7

/-- The type codes of R81. -/
def Event.typeCode : Event → BitVec 4
  | .clockEdge _ => 0
  | .symbolDecoded _ _ _ => 1
  | .byteDecoded _ _ _ _ => 2
  | .frameStart _ => 3
  | .frameEnd _ _ _ _ _ _ _ _ => 4
  | .errorMarker _ _ _ _ => 5

/-- `start_idx` (R80). -/
def Event.startIdx : Event → Index
  | .clockEdge idx => idx
  | .symbolDecoded idx _ _ => idx
  | .byteDecoded first _ _ _ => first
  | .frameStart idx => idx
  | .frameEnd first _ _ _ _ _ _ _ => first
  | .errorMarker first _ _ _ => first

/-- `end_idx` (R80). -/
def Event.endIdx : Event → Index
  | .clockEdge idx => idx
  | .symbolDecoded idx _ _ => idx
  | .byteDecoded _ last _ _ => last
  | .frameStart idx => idx
  | .frameEnd _ last _ _ _ _ _ _ => last
  | .errorMarker _ last _ _ => last

/-- The payload `P[127:0]` (R82 to R87), written with its most significant field first; unassigned bits are 0 (V5). -/
def Event.payload : Event → BitVec 128
  | .clockEdge _ => 0
  | .symbolDecoded _ dibit ctrl => 0#125 ++ BitVec.ofBool ctrl ++ dibit
  | .byteDecoded _ _ value frameRef => 0#56 ++ frameRef ++ value
  | .frameStart _ => 0
  | .frameEnd _ _ status resCount resBits byteCount bodyCount sfdSeen =>
      0#52 ++ BitVec.ofBool sfdSeen ++ bodyCount ++ byteCount ++ resBits ++ resCount ++ status.code
  | .errorMarker _ _ kind detail => 0#60 ++ detail ++ kind.code

/-- The event word (R80): `EV = {P, end_idx, start_idx, type}`. -/
def Event.encode (e : Event) : EventWord :=
  e.payload ++ e.endIdx ++ e.startIdx ++ e.typeCode

/-- The status of a FrameEnd's code; 0 and 5 to 7 are reserved there (R88, R90). -/
def FrameStatus.ofCode (c : BitVec 3) : Option FrameStatus :=
  if c = 1 then some .completeAligned
  else if c = 2 then some .completeUnaligned
  else if c = 3 then some .falseCarrier
  else if c = 4 then some .truncated
  else none

/-- The kind of a code; 0 and 7 to 15 are reserved (R89, R90). -/
def MarkerKind.ofCode (c : BitVec 4) : Option MarkerKind :=
  if c = 1 then some .falseCarrier
  else if c = 2 then some .missingSfd
  else if c = 3 then some .dribble
  else if c = 4 then some .truncated
  else if c = 5 then some .unexpectedEdgeSpacing
  else if c = 6 then some .runtFrame
  else none

/-- The fields of an event word, read at the bit positions of R80 to R87; no event for a reserved type, status or kind. -/
def Event.fields (ev : EventWord) : Option Event :=
  let first : Index := ev.extractLsb' 4 64
  let last : Index := ev.extractLsb' 68 64
  let p : BitVec 128 := ev.extractLsb' 132 128
  let type : BitVec 4 := ev.extractLsb' 0 4
  if type = 0 then some (.clockEdge first)
  else if type = 1 then some (.symbolDecoded first (p.extractLsb' 0 2) (p.getLsbD 2))
  else if type = 2 then some (.byteDecoded first last (p.extractLsb' 0 8) (p.extractLsb' 8 64))
  else if type = 3 then some (.frameStart first)
  else if type = 4 then
    (FrameStatus.ofCode (p.extractLsb' 0 3)).map fun status =>
      .frameEnd first last status (p.extractLsb' 3 2) (p.extractLsb' 5 6) (p.extractLsb' 11 32)
        (p.extractLsb' 43 32) (p.getLsbD 75)
  else if type = 5 then
    (MarkerKind.ofCode (p.extractLsb' 0 4)).map fun kind => .errorMarker first last kind (p.extractLsb' 4 64)
  else none

/-- A consumer's reading of a lane: the event whose word it is, if it is one's (R90: a reserved code is an error; V5: an unassigned bit is 0). -/
def Event.decodeWord (ev : EventWord) : Option Event :=
  match Event.fields ev with
  | some e => if e.encode = ev then some e else none
  | none => none

/-- The event may stand on the port: no reserved status or kind (R90). -/
def Event.emittable : Event → Bool
  | .clockEdge _ => true
  | .symbolDecoded _ _ _ => true
  | .byteDecoded _ _ _ _ => true
  | .frameStart _ => true
  | .frameEnd _ _ status _ _ _ _ _ => status != .inProgress
  | .errorMarker _ _ kind _ => kind != .collisionExtension

end Sys2Proof.Machine
end

