-- ==== Sys2Proof/Machine/State.lean ====
section
/-! DEFINITION. The state of the core: the twelve registers of 10_state.md R22, the event port, the configuration inputs, and the host's coming port cycles. -/

namespace Sys2Proof.Machine

/-- The FrameAssembler states (10_state.md R26). `closing` is transient: it exists only inside the close sequence of one command (42_frame_assembler.md R142). -/
inductive FaState where
  | idle
  | preamble
  | inFrame
  | closing
deriving DecidableEq, Repr

/-- What the host drives in one `clk_sys` cycle: the command port (30_encoding.md R70) and the configuration inputs (R76). -/
structure PortCycle where
  rst : Bool
  inCmd : BitVec 6
  inIdx : Index
  cfg : Config
deriving DecidableEq, Repr

/-- The machine's state. The first twelve fields are the registers of 10_state.md R22, in its order. -/
structure State where
  /-- `have_prev`: a sample has been processed in this stream (R23). -/
  havePrev : Bool
  /-- `prev_clk`: REF_CLK of the previous sample (R23). -/
  prevClk : Bool
  /-- `last_idx`: index of the previous sample (R24). -/
  lastIdx : Index
  /-- `have_edge`: a clock edge has been seen in this stream (R25). -/
  haveEdge : Bool
  /-- `last_edge_idx`: index of the previous clock edge (R25). -/
  lastEdgeIdx : Index
  /-- `fa_state` (R26). -/
  faState : FaState
  /-- `acc_count`: buffered dibits, 0 to 3 (R27). -/
  accCount : BitVec 2
  /-- `acc_bits`: the dibit consumed k-th in bits `2k+1:2k` (R27). -/
  accBits : BitVec 6
  /-- `acc_first_idx`: index of the first buffered dibit (R28). -/
  accFirstIdx : Index
  /-- `frame_start_idx` of the open frame (R29). -/
  frameStartIdx : Index
  /-- `byte_count`, saturating (R30). -/
  byteCount : Count
  /-- `body_count`, saturating (R31). -/
  bodyCount : Count
  /-- The event port: the events of the previous cycle's command, first event first (30_encoding.md R78, R79; log 4). -/
  out : List Event
  /-- The configuration inputs as the host holds them (00_scope.md R10, 10_state.md R34; log 2). -/
  cfg : Config
  /-- The model's own field: the port cycles the host has yet to drive, the next one first (log 1). -/
  input : List PortCycle
deriving DecidableEq, Repr

/-- Reasons the machine stops. -/
inductive Fault where
  /-- Raised by SAMPLE at a clock edge with `fa_state = CLOSING`, for which R130 has no case because it "cannot occur at dispatch". Safe: the model stops where the spec gives no effect, and no state a run reaches raises it (log 5). -/
  | closingAtDispatch
deriving DecidableEq, Repr

/-- Reasons the model gives a command no meaning (00_scope.md R13, `refuse`). -/
inductive Refusal where
  /-- Answered by an arm of exec that has no meaning yet: no arm of this model. Safe. -/
  | notModelled (mnemonic : String)
  /-- Answered by SAMPLE when its index is not above the stream's last one (40_edge_detector.md R101, 60_exceptions.md R226 H1). Safe: the spec refuses too. -/
  | nonIncreasingIndex
  /-- Answered by step when a configuration input changes in a cycle with `rst = 0` (10_state.md R34, 60_exceptions.md R226 H3). Safe: the spec refuses too. -/
  | configurationChanged
deriving DecidableEq, Repr

/-- The state after RESET: every register at the reset value of 10_state.md R22 (70_reset_and_hazards.md R250), the event port empty, nothing presented (log 1), the OPEN configuration at REF (log 2). -/
def State.reset : State where
  havePrev := false
  prevClk := false
  lastIdx := 0
  haveEdge := false
  lastEdgeIdx := 0
  faState := .idle
  accCount := 0
  accBits := 0
  accFirstIdx := 0
  frameStartIdx := 0
  byteCount := 0
  bodyCount := 0
  out := []
  cfg := Config.ref
  input := []

end Sys2Proof.Machine
end

