-- ==== Sys2Proof/Machine/Flags.lean ====
section
/-! DEFINITION. Derived signals (10_state.md R32) and the conditions the stages test. The core has no condition codes. -/

namespace Sys2Proof.Machine

/-- The code of `fa_state` (10_state.md R26). -/
def FaState.code : FaState → BitVec 2
  | .idle => 0
  | .preamble => 1
  | .inFrame => 2
  | .closing => 3

/-- `frame_open = (fa_state ≠ IDLE)` (R32). -/
def State.frameOpen (s : State) : Bool := s.faState != .idle

/-- `sfd_seen = (fa_state = IN_FRAME)` (R32). -/
def State.sfdSeen (s : State) : Bool := s.faState == .inFrame

/-- `carrier_prev`: the control bit of the previous clock edge of the stream, 0 before the first; "equals `frame_open`" (R32). -/
def State.carrierPrev (s : State) : Bool := s.frameOpen

/-- A SAMPLE whose index is not above the stream's last one (40_edge_detector.md R101). -/
def State.indexRefused (s : State) (idx : Index) : Bool :=
  s.havePrev && decide (idx ≤ s.lastIdx)

/-- The edge condition of 40_edge_detector.md R102, on the registers before the command. -/
def State.isEdge (s : State) (clk : Bool) : Bool :=
  s.havePrev && !s.prevClk && clk

/-- An edge distance outside `[EDGE_DELTA_MIN, EDGE_DELTA_MAX]` (43_error_classifier.md R185). -/
def State.implausible (s : State) (delta : Index) : Bool :=
  decide (delta < s.cfg.edgeDeltaMin) || decide (s.cfg.edgeDeltaMax < delta)

/-- Why a frame closes (42_frame_assembler.md R139). -/
inductive CloseCause where
  | deassert
  | eos
deriving DecidableEq, Repr

/-- ClassifyStatus(cause) (42_frame_assembler.md R140), the first matching row. -/
def State.classifyStatus (s : State) : CloseCause → FrameStatus
  | .eos => .truncated
  | .deassert =>
    if s.byteCount = 0 then .falseCarrier
    else if s.accCount = 0 then .completeAligned
    else .completeUnaligned

/-- MISSING_SFD applies (43_error_classifier.md R182). -/
def State.missingSfd (s : State) (sfd : Bool) : Bool :=
  !sfd && decide (s.cfg.preambleBudget < s.byteCount)

/-- RUNT_FRAME applies (43_error_classifier.md R183). -/
def State.runtFrame (s : State) (status : FrameStatus) (sfd : Bool) : Bool :=
  (status == .completeAligned || status == .completeUnaligned) && sfd &&
    decide (s.bodyCount < s.cfg.runtMinBytes)

end Sys2Proof.Machine
end

