-- ==== Sys2Proof/Machine/Ops.lean ====
section
/-! DEFINITION. The named register and event operations that the commands' meanings are written over. The core has no memory (20_memory.md R50) and takes no exception (60_exceptions.md R220, R223): there is no such operation here. -/

namespace Sys2Proof.Machine

/-- A command's event list begins empty (30_encoding.md R78: the port shows one command's events; log 4). -/
def State.beginCommand (s : State) : State := { s with out := [] }

/-- `emit` (00_scope.md R13): one event appended to the command's list. -/
def State.emit (s : State) (e : Event) : State := { s with out := s.out ++ [e] }

/-- `if c: emit` (43_error_classifier.md R180). -/
def State.emitIf (s : State) (c : Bool) (e : Event) : State := if c then s.emit e else s

/-- The prior-state update of every accepted SAMPLE (40_edge_detector.md R105). -/
def State.recordSample (s : State) (clk : Bool) (idx : Index) : State :=
  { s with prevClk := clk, havePrev := true, lastIdx := idx }

/-- `have_edge <- 1 ; last_edge_idx <- idx` (40_edge_detector.md R100). -/
def State.recordEdge (s : State) (idx : Index) : State :=
  { s with haveEdge := true, lastEdgeIdx := idx }

/-- The accumulator cleared (10_state.md R36: at each byte boundary, frame start and close). -/
def State.clearAcc (s : State) : State :=
  { s with accCount := 0, accBits := 0, accFirstIdx := 0 }

/-- The register writes of Start (42_frame_assembler.md R132). -/
def State.openFrame (s : State) (idx : Index) : State :=
  { s.clearAcc with faState := .preamble, frameStartIdx := idx, byteCount := 0, bodyCount := 0 }

/-- A dibit buffered as the first to third since the last byte boundary (42_frame_assembler.md R133, `acc_count < 3`). -/
def State.pushDibit (s : State) (idx : Index) (dibit : Dibit) : State :=
  { s with
    accFirstIdx := if s.accCount = 0 then idx else s.accFirstIdx
    accBits := setDibit s.accBits s.accCount dibit
    accCount := s.accCount + 1 }

/-- The state register written. -/
def State.enter (s : State) (f : FaState) : State := { s with faState := f }

/-- `byte_count <- sat_inc(byte_count)` (42_frame_assembler.md R134). -/
def State.countByte (s : State) : State := { s with byteCount := satInc s.byteCount }

/-- `body_count <- sat_inc(body_count)` (42_frame_assembler.md R134, R136). -/
def State.countBody (s : State) : State := { s with bodyCount := satInc s.bodyCount }

/-- ClearFrame (42_frame_assembler.md R141). -/
def State.clearFrame (s : State) : State :=
  { s.clearAcc with faState := .idle, frameStartIdx := 0, byteCount := 0, bodyCount := 0 }

/-- Every register of 10_state.md R22 to its reset value: RESET's writes (70_reset_and_hazards.md R250) and EOS's Reinit (44_stream_control.md R203). -/
def State.reinit (s : State) : State :=
  { s with
    havePrev := false, prevClk := false, lastIdx := 0
    haveEdge := false, lastEdgeIdx := 0
    faState := .idle
    accCount := 0, accBits := 0, accFirstIdx := 0
    frameStartIdx := 0, byteCount := 0, bodyCount := 0 }

end Sys2Proof.Machine
end

