-- ==== Sys2Proof/Machine/Reset.lean ====
section
/-! DEFINITION. RESET (70_reset_and_hazards.md). -/

namespace Sys2Proof.Machine

/-- RESET (R250): every register to its reset value, no event; an open frame is abandoned. -/
def execReset (s : State) : Host.Outcome State Fault Refusal :=
  .next s.beginCommand.reinit

end Sys2Proof.Machine
end

