-- ==== Sys2Proof/Machine/ErrorClassifier.lean ====
section
/-! DEFINITION. The ErrorClassifier (43_error_classifier.md): the markers at a close and the edge-spacing check. It writes no register (R170). -/

namespace Sys2Proof.Machine

/-- The marker that repeats the frame's status (R180, R181, R184), if the status has one. -/
def statusMarker : FrameStatus → Option MarkerKind
  | .inProgress => none
  | .completeAligned => none
  | .completeUnaligned => some .dribble
  | .falseCarrier => some .falseCarrier
  | .truncated => some .truncated

/-- The status marker emitted with the leftover dibits as its detail (R180). -/
def State.emitStatusMarker (s : State) (status : FrameStatus) (last : Index) : State :=
  match statusMarker status with
  | some kind => s.emit (.errorMarker s.frameStartIdx last kind (zextDibits s.accCount))
  | none => s

/-- CloseMarkers (R180): the status marker, then MISSING_SFD (R182), then RUNT_FRAME (R183). -/
def State.closeMarkers (s : State) (status : FrameStatus) (sfd : Bool) (last : Index) : State :=
  ((s.emitStatusMarker status last).emitIf (s.missingSfd sfd)
      (.errorMarker s.frameStartIdx last .missingSfd (zextCount s.byteCount))).emitIf
    (s.runtFrame status sfd)
    (.errorMarker s.frameStartIdx last .runtFrame (zextCount s.bodyCount))

/-- EdgeSpacingCheck (R185), on `have_edge` and `last_edge_idx` before the edge is recorded. -/
def State.edgeSpacingCheck (s : State) (idx : Index) : State :=
  s.emitIf (s.haveEdge && s.implausible (idx - s.lastEdgeIdx))
    (.errorMarker s.lastEdgeIdx idx .unexpectedEdgeSpacing (idx - s.lastEdgeIdx))

end Sys2Proof.Machine
end

