-- ==== Sys2Proof/Machine/FrameAssembler.lean ====
section
/-! DEFINITION. The FrameAssembler and its byte accumulator (42_frame_assembler.md). -/

namespace Sys2Proof.Machine

/-- Start (R132): a frame created, FrameStart emitted. -/
def State.start (s : State) (idx : Index) : State :=
  (s.openFrame idx).emit (.frameStart idx)

/-- The state change at a completed byte (R134): a body byte counted in IN_FRAME (R136), the SFD recognised in PREAMBLE (R135). -/
def State.noteByte (s : State) (value : Byte) : State :=
  if s.faState = .inFrame then s.countBody
  else if value = sfdByte then s.enter .inFrame
  else s

/-- CompleteByte (R134): the fourth dibit completes a byte, which leaves as a ByteDecoded event (20_memory.md R61). -/
def State.completeByte (s : State) (idx : Index) (dibit : Dibit) : State :=
  let value := assembleByte s.accBits dibit
  (((s.emit (.byteDecoded s.accFirstIdx idx value s.frameStartIdx)).countByte).noteByte value).clearAcc

/-- Consume (R133): a dibit sampled with `ctrl = 1` enters the accumulator. -/
def State.consume (s : State) (idx : Index) (dibit : Dibit) : State :=
  if s.accCount = 3 then s.completeByte idx dibit else s.pushDibit idx dibit

/-- The FrameEnd of the open frame (R139, 30_encoding.md R86). -/
def State.frameEndEvent (s : State) (status : FrameStatus) (last : Index) : Event :=
  .frameEnd s.frameStartIdx last status s.accCount s.accBits s.byteCount s.bodyCount s.sfdSeen

/-- Close (R139): CLOSING for the length of this sequence (R142), FrameEnd, the markers, then ClearFrame (R141). -/
def State.close (s : State) (last : Index) (cause : CloseCause) : State :=
  let status := s.classifyStatus cause
  ((((s.enter .closing).emit (s.frameEndEvent status last)).closeMarkers status s.sfdSeen last)).clearFrame

/-- FrameStep (R130). `fa_state = CLOSING` "cannot occur at dispatch": the model stops there (log 5). -/
def frameStep (idx : Index) (ctrl : Bool) (dibit : Dibit) (s : State) : Host.Outcome State Fault Refusal :=
  match s.faState with
  | .idle => .next (if ctrl then (s.start idx).consume idx dibit else s)
  | .preamble => .next (if ctrl then s.consume idx dibit else s.close idx .deassert)
  | .inFrame => .next (if ctrl then s.consume idx dibit else s.close idx .deassert)
  | .closing => .fault .closingAtDispatch

end Sys2Proof.Machine
end

