-- ==== Sys2Proof/Machine/SymbolExtractor.lean ====
section
/-! DEFINITION. The SymbolExtractor (41_symbol_extractor.md). -/

namespace Sys2Proof.Machine

/-- SymbolExtract (R120, R121): exactly one SymbolDecoded; no register is written (R122). -/
def State.symbolExtract (s : State) (idx : Index) (ctrl : Bool) (dibit : Dibit) : State :=
  s.emit (.symbolDecoded idx dibit ctrl)

end Sys2Proof.Machine
end

