-- ==== Sys2Proof/Machine/Sample.lean ====
section
/-! DEFINITION. SAMPLE (40_edge_detector.md): one captured sample through the four stages. -/

namespace Sys2Proof.Machine

/-- The edge part of SAMPLE (R100) before the FrameAssembler: ClockEdge (R104), the spacing check (R185), the edge recorded (R25), the symbol (R120). -/
def State.edgeStages (s : State) (idx : Index) (ctrl : Bool) (dibit : Dibit) : State :=
  (((s.emit (.clockEdge idx)).edgeSpacingCheck idx).recordEdge idx).symbolExtract idx ctrl dibit

/-- SAMPLE (R100). The index precondition (R101) comes first; the edge is decided on the registers before the command (R102). -/
def execSample (clk ctrl : Bool) (dibit : Dibit) (idx : Index) (s : State) : Host.Outcome State Fault Refusal :=
  if s.indexRefused idx then .refused .nonIncreasingIndex
  else
    let accepted := s.beginCommand.recordSample clk idx
    if s.isEdge clk then frameStep idx ctrl dibit (accepted.edgeStages idx ctrl dibit)
    else .next accepted

end Sys2Proof.Machine
end

