-- ==== Sys2Proof/Machine/StreamControl.lean ====
section
/-! DEFINITION. Stream control (44_stream_control.md): NOP and EOS. -/

namespace Sys2Proof.Machine

/-- NOP (R200): no register written, no event. -/
def execNop (s : State) : Host.Outcome State Fault Refusal :=
  .next s.beginCommand

/-- EOS (R201): an open frame closed as Truncated at `last_idx` (R202), then every register re-initialised (R203). -/
def execEos (s : State) : Host.Outcome State Fault Refusal :=
  let begun := s.beginCommand
  .next (if s.frameOpen then begun.close s.lastIdx .eos else begun).reinit

end Sys2Proof.Machine
end

