-- ==== Sys2Proof/Syntax.lean ====
section
/-! DEFINITION. The commands of the core's command port, which the spec calls its instructions (00_scope.md R3): one constructor per row of spec/opcode_table.json. -/

namespace Sys2Proof

/-- A decoded command. A bit that a command ignores (30_encoding.md R73) is no part of it. -/
inductive Instr where
  /-- RESET (70_reset_and_hazards.md R250). -/
  | reset
  /-- NOP: no command this cycle (44_stream_control.md R200). -/
  | nop
  /-- SAMPLE: one captured sample, its lines REF_CLK and CTRL, its dibit `{D1, D0}` and its index (40_edge_detector.md R100, 30_encoding.md R74). -/
  | sample (clk ctrl : Bool) (dibit : Dibit) (idx : Index)
  /-- EOS: end of the sample stream (44_stream_control.md R201). -/
  | eos
deriving DecidableEq, Repr

end Sys2Proof
end

