-- ==== Sys2Proof/Machine/Dispatch.lean ====
section
/-! DEFINITION. One arm per command. -/

namespace Sys2Proof.Machine

def exec (i : Instr) (s : State) : Host.Outcome State Fault Refusal :=
  match i with
  | .reset => Sys2Proof.Machine.execReset s
  | .nop => Sys2Proof.Machine.execNop s
  | .sample clk ctrl dibit idx => Sys2Proof.Machine.execSample clk ctrl dibit idx s
  | .eos => Sys2Proof.Machine.execEos s

end Sys2Proof.Machine
end

