-- ==== Sys2Proof/WellFormed.lean ====
section
/-! DEFINITION. Well-formedness: of a command, of a table word, and of a list of commands as the host must present them (60_exceptions.md R225). -/

namespace Sys2Proof

/-- Every decoded command is well formed: every dibit is legal (41_symbol_extractor.md R123), every index may come first, and no word is illegal (30_encoding.md R72). What can be ill formed is a table word or a LIST of commands (below). -/
def Instr.wf : Instr → Bool
  | .reset => true
  | .nop => true
  | .sample _ _ _ _ => true
  | .eos => true

/-- A word in the table's bit numbering stands for a command when it is `W[6:0]`, a zero bit that pads W to a whole byte, and `in_idx` above that byte (log 7). -/
def tableWordWf (w : Nat) : Bool :=
  decide (w < 2 ^ 72) && decide (w % 256 < 128)

/-- Host duty H1 (60_exceptions.md R225, 40_edge_detector.md R101): within a stream the sample indices strictly increase. `last` is the index of the stream's last sample, if it has one; EOS and RESET begin a new stream. -/
def indicesIncrease : Option Index → List Instr → Bool
  | _, [] => true
  | _, .reset :: p => indicesIncrease none p
  | last, .nop :: p => indicesIncrease last p
  | last, .sample _ _ _ idx :: p =>
      (match last with
        | none => true
        | some l => decide (l < idx)) && indicesIncrease (some idx) p
  | _, .eos :: p => indicesIncrease none p

/-- Host duty H4 (60_exceptions.md R225): the last command is EOS. It is the half of the end-of-run definition (44_stream_control.md R204) that the commands alone show; `finishedRun` in Safety.lean is the whole. -/
def endsWithEos (p : List Instr) : Bool :=
  p.getLast? == some .eos

end Sys2Proof
end

