-- ==== Sys2Proof/Decode.lean ====
section
/-! DEFINITION. The decoder of the command word (30_encoding.md R71 to R74), total on all 128 words, and the encoder (R77). -/

namespace Sys2Proof

/-- One row of the table of 30_encoding.md R72. -/
structure CommandRow where
  mnemonic : String
  mask : CommandWord
  pattern : CommandWord
deriving DecidableEq, Repr

/-- The word `w` is one of the row's words. -/
def CommandRow.takes (r : CommandRow) (w : CommandWord) : Bool :=
  (w &&& r.mask) == r.pattern

def resetRow : CommandRow := { mnemonic := "RESET", mask := 0x40, pattern := 0x40 }
def nopRow : CommandRow := { mnemonic := "NOP", mask := 0x60, pattern := 0x00 }
def sampleRow : CommandRow := { mnemonic := "SAMPLE", mask := 0x70, pattern := 0x20 }
def eosRow : CommandRow := { mnemonic := "EOS", mask := 0x70, pattern := 0x30 }

/-- The rows in the order of R72, first match first. -/
def commandRows : List CommandRow := [resetRow, nopRow, sampleRow, eosRow]

/-- The first row that matches, the search of R72. Every word has one. -/
def matchingRow (w : CommandWord) : Option CommandRow :=
  commandRows.find? (·.takes w)

/-- `clk = W[3]` (R74). -/
def clkField (w : CommandWord) : Bool := w.getLsbD 3

/-- `ctrl = W[2]` (R74). -/
def ctrlField (w : CommandWord) : Bool := w.getLsbD 2

/-- `dibit = {W[1], W[0]} = {D1, D0}` (R74, 20_memory.md R53). -/
def dibitField (w : CommandWord) : Dibit :=
  BitVec.ofBool (w.getLsbD 1) ++ BitVec.ofBool (w.getLsbD 0)

/-- The decoder (R72): the first matching row wins, top to bottom. "No value of W is illegal", so it rejects nothing: a word that no row above EOS takes is one of EOS's. -/
def decode (w : CommandWord) (inIdx : Index) : Instr :=
  if resetRow.takes w then .reset
  else if nopRow.takes w then .nop
  else if sampleRow.takes w then .sample (clkField w) (ctrlField w) (dibitField w) inIdx
  else .eos

/-- The canonical word of a command (R77, R91), ignored bits 0 (R73). -/
def encodeWord : Instr → CommandWord
  | .reset => 0x40
  | .nop => 0x00
  | .sample clk ctrl dibit _ => 0b010#3 ++ BitVec.ofBool clk ++ BitVec.ofBool ctrl ++ dibit
  | .eos => 0x30

/-- The canonical `in_idx` beside the word: SAMPLE's index; the other commands ignore it (R71, R73). -/
def encodeIdx : Instr → Index
  | .reset => 0
  | .nop => 0
  | .sample _ _ _ idx => idx
  | .eos => 0

/-- The encoder: W and `in_idx` of a command (R75: one word of W plus `in_idx`). -/
def encode (i : Instr) : CommandWord × Index := (encodeWord i, encodeIdx i)

/-- W of a table word: its low seven bits (log 7). -/
def tableCommandWord (w : Nat) : CommandWord := BitVec.ofNat 7 w

/-- `in_idx` of a table word: the bits above its first byte (log 7). -/
def tableIndex (w : Nat) : Index := BitVec.ofNat 64 (w / 256)

/-- The command the decoder reads from a table row's word of `nbits` bits, every bit above them 0. -/
def decodeTableWord (nbits w : Nat) : Option Instr :=
  let v := w % 2 ^ nbits
  if tableWordWf v then some (decode (tableCommandWord v) (tableIndex v)) else none

end Sys2Proof
end

