-- ==== Sys2Proof/Machine/Port.lean ====
section
/-! DEFINITION. The ports: what the host drives in a cycle (30_encoding.md R70, R71, R76), and the lanes of the event port (R78). -/

namespace Sys2Proof.Machine

/-- `W = {rst, in_cmd[5:0]}` (R71). -/
def PortCycle.word (c : PortCycle) : CommandWord := BitVec.ofBool c.rst ++ c.inCmd

/-- The port cycle that drives `W` and `in_idx` under a configuration. -/
def PortCycle.ofWord (w : CommandWord) (inIdx : Index) (cfg : Config) : PortCycle :=
  { rst := w.getLsbD 6, inCmd := w.extractLsb' 0 6, inIdx := inIdx, cfg := cfg }

/-- The port cycle that presents a command in its canonical encoding. -/
def PortCycle.present (cfg : Config) (i : Instr) : PortCycle :=
  PortCycle.ofWord (encodeWord i) (encodeIdx i) cfg

/-- The port cycle of a table row's word of `nbits` bits, every bit above them 0, if it stands for a command (log 7). -/
def PortCycle.ofTableWord (nbits w : Nat) (cfg : Config) : Option PortCycle :=
  let v := w % 2 ^ nbits
  if tableWordWf v then some (PortCycle.ofWord (tableCommandWord v) (tableIndex v) cfg) else none

/-- The pins of an idle host: `VALID = 0`, a NOP (44_stream_control.md R200), the configuration held. -/
def PortCycle.idle (cfg : Config) : PortCycle :=
  { rst := false, inCmd := 0, inIdx := 0, cfg := cfg }

/-- The command of a port cycle (R72). -/
def PortCycle.command (c : PortCycle) : Instr := decode c.word c.inIdx

/-- What the host drives in the coming cycle: the head of `input`, or an idle port when it has presented nothing more (log 1). -/
def State.presented (s : State) : PortCycle :=
  match s.input with
  | [] => PortCycle.idle s.cfg
  | c :: _ => c

/-- A configuration input changed while `rst = 0` (10_state.md R34, 60_exceptions.md R226 H3; log 3). -/
def State.configurationChanged (s : State) : Bool :=
  !s.presented.rst && s.presented.cfg != s.cfg

/-- The state in which the presented command runs: the cycle taken from the host's, its configuration inputs in force. -/
def State.accept (s : State) : State :=
  { s with input := s.input.tail, cfg := s.presented.cfg }

/-- `out_count` (R78). -/
def State.outCount (s : State) : BitVec 3 := BitVec.ofNat 3 s.out.length

/-- `out_ev[k]` (R78): the k-th event's word, all zeros in a lane at or above `out_count`. -/
def State.outEv (s : State) (k : Nat) : EventWord :=
  match s.out[k]? with
  | some e => e.encode
  | none => 0

/-- A host that presents the commands of a list, one a cycle, under the configuration it already holds. -/
def State.withCommands (s : State) (p : List Instr) : State :=
  { s with input := p.map (PortCycle.present s.cfg) }

end Sys2Proof.Machine
end

