-- ==== Sys2Proof/Machine/Step.lean ====
section
/-! DEFINITION. One `clk_sys` cycle (70_reset_and_hazards.md R259): one command accepted, its events on the port in the next state. -/

namespace Sys2Proof.Machine

/-- One cycle. A configuration change outside RESET is refused (60_exceptions.md R226 H3); otherwise the presented command is decoded and runs. -/
def step (s : State) : Host.Outcome State Fault Refusal :=
  if s.configurationChanged then .refused .configurationChanged
  else exec s.presented.command s.accept

/-- The state in which the host presents a table word's command next (log 7, log 15); a word that stands for none changes nothing. -/
def State.withFetchWord (s : State) (nbits w : Nat) : State :=
  match PortCycle.ofTableWord nbits w s.cfg with
  | some c => { s with input := c :: s.input }
  | none => s

end Sys2Proof.Machine
end

