-- ==== Sys2Proof/Machine/Pseudo.lean ====
section
/-! DEFINITION. The pseudo-instructions of 30_encoding.md R92, each expanded into the commands it stands for. -/

namespace Sys2Proof.Machine

/-- `CYC n ctrl d1d0`: one reference-clock period of two samples, its clock edge at index `2n+1`. -/
def cyc (n : Nat) (ctrl : Bool) (dibit : Dibit) : List Instr :=
  [.sample false ctrl dibit (BitVec.ofNat 64 (2 * n)),
   .sample true ctrl dibit (BitVec.ofNat 64 (2 * n + 1))]

/-- `IDLE n`: one idle period. -/
def idle (n : Nat) : List Instr := cyc n false 0

/-- `TXB n ctrl byte`: one byte, least-significant dibit first (20_memory.md R52), in periods n to n+3. -/
def txb (n : Nat) (ctrl : Bool) (value : Byte) : List Instr :=
  cyc n ctrl (byteDibit value 0) ++ cyc (n + 1) ctrl (byteDibit value 1) ++
    cyc (n + 2) ctrl (byteDibit value 2) ++ cyc (n + 3) ctrl (byteDibit value 3)

/-- `TXD n ctrl d1d0`: one dibit. -/
def txd (n : Nat) (ctrl : Bool) (dibit : Dibit) : List Instr := cyc n ctrl dibit

end Sys2Proof.Machine
end

