-- ==== Sys2Proof/Machine/Text.lean ====
section
/-! DEFINITION. The text syntax of commands (30_encoding.md R91, R92) and of events (R93), over lists of characters (log 14). -/

namespace Sys2Proof.Machine

/-- The characters of a string. -/
def chars (t : String) : List Char := t.toList

/-- The value of a digit, decimal or hexadecimal, either case. -/
def digitValue (c : Char) : Option Nat :=
  if '0' ≤ c ∧ c ≤ '9' then some (c.toNat - '0'.toNat)
  else if 'a' ≤ c ∧ c ≤ 'f' then some (c.toNat - 'a'.toNat + 10)
  else if 'A' ≤ c ∧ c ≤ 'F' then some (c.toNat - 'A'.toNat + 10)
  else none

/-- The number that digits of a base write after the number `acc`. -/
def readDigits (base : Nat) : Nat → List Char → Option Nat
  | acc, [] => some acc
  | acc, c :: cs =>
    match digitValue c with
    | some d => if d < base then readDigits base (base * acc + d) cs else none
    | none => none

/-- A number in decimal or `0x` hexadecimal (R91). -/
def readNumber : List Char → Option Nat
  | [] => none
  | ['0', 'x'] => none
  | '0' :: 'x' :: cs => readDigits 16 0 cs
  | cs => readDigits 10 0 cs

/-- A single binary digit. -/
def readBit : List Char → Option Bool
  | ['0'] => some false
  | ['1'] => some true
  | _ => none

/-- A dibit written as two binary digits `d1d0` (00_scope.md R12). -/
def readDibit : List Char → Option Dibit
  | [c1, c0] =>
    match readBit [c1], readBit [c0] with
    | some d1, some d0 => some (BitVec.ofBool d1 ++ BitVec.ofBool d0)
    | _, _ => none
  | _ => none

/-- A number below `2^w`, as a word. -/
def readWord (w : Nat) (cs : List Char) : Option (BitVec w) :=
  match readNumber cs with
  | some n => if n < 2 ^ w then some (BitVec.ofNat w n) else none
  | none => none

/-- A period number whose periods `n` to `n + extra` have 64-bit indices (R92). -/
def readPeriod (extra : Nat) (cs : List Char) : Option Nat :=
  match readNumber cs with
  | some n => if 2 * (n + extra) + 1 < 2 ^ 64 then some n else none
  | none => none

/-- The line up to its comment (R91: `;` to end of line). -/
def dropComment (cs : List Char) : List Char := cs.takeWhile (· != ';')

/-- The line's tokens: its runs of characters other than blanks. -/
def tokens : List Char → List (List Char)
  | [] => []
  | c :: cs =>
    if c = ' ' ∨ c = '\t' then tokens cs
    else match cs, tokens cs with
      | d :: _, t :: ts => if d = ' ' ∨ d = '\t' then [c] :: t :: ts else (c :: t) :: ts
      | _, ts => [c] :: ts

/-- The commands of a tokenised line: a command (R91) or a pseudo-instruction (R92); an empty line has none. -/
def assembleTokens : List (List Char) → Option (List Instr)
  | [] => some []
  | [op] =>
    if op = chars "RESET" then some [.reset]
    else if op = chars "NOP" then some [.nop]
    else if op = chars "EOS" then some [.eos]
    else none
  | [op, n] =>
    if op = chars "IDLE" then (readPeriod 0 n).map idle else none
  | [op, n, c, d] =>
    if op = chars "CYC" then
      match readPeriod 0 n, readBit c, readDibit d with
      | some n, some c, some d => some (cyc n c d)
      | _, _, _ => none
    else if op = chars "TXD" then
      match readPeriod 0 n, readBit c, readDibit d with
      | some n, some c, some d => some (txd n c d)
      | _, _, _ => none
    else if op = chars "TXB" then
      match readPeriod 3 n, readBit c, readWord 8 d with
      | some n, some c, some b => some (txb n c b)
      | _, _, _ => none
    else none
  | [op, i, k, c, d] =>
    if op = chars "S" then
      match readWord 64 i, readBit k, readBit c, readDibit d with
      | some i, some k, some c, some d => some [.sample k c d i]
      | _, _, _, _ => none
    else none
  | _ => none

/-- The commands of one line of a program's text (R91, R92). -/
def assembleLine (cs : List Char) : Option (List Instr) :=
  assembleTokens (tokens (dropComment cs))

/-- The commands of a program's text, line by line. -/
def assemble : List (List Char) → Option (List Instr)
  | [] => some []
  | l :: ls =>
    match assembleLine l, assemble ls with
    | some p, some q => some (p ++ q)
    | _, _ => none

/-- A bit as a character. -/
def bitChar (b : Bool) : Char := if b then '1' else '0'

/-- A dibit as `d1d0`. -/
def printDibit (d : Dibit) : List Char := [bitChar (d.getLsbD 1), bitChar (d.getLsbD 0)]

/-- A number in decimal. -/
def printNat (n : Nat) : List Char := Nat.toDigits 10 n

/-- A word's bits, the most significant first. -/
def printBits {w : Nat} (v : BitVec w) : List Char :=
  (List.range w).reverse.map fun k => bitChar (v.getLsbD k)

/-- A hexadecimal digit, capital. -/
def hexChar (n : BitVec 4) : Char :=
  if n.toNat < 10 then Char.ofNat ('0'.toNat + n.toNat) else Char.ofNat ('A'.toNat + (n.toNat - 10))

/-- The text of a command (R91). -/
def printCommand : Instr → List Char
  | .reset => chars "RESET"
  | .nop => chars "NOP"
  | .sample clk ctrl dibit idx =>
    ['S', ' '] ++ printNat idx.toNat ++ [' ', bitChar clk, ' ', bitChar ctrl, ' '] ++ printDibit dibit
  | .eos => chars "EOS"

/-- A payload in braces (R93). -/
def braced (cs : List Char) : List Char := [Char.ofNat 123] ++ cs ++ [Char.ofNat 125]

/-- A range `[s..e]` (R93). -/
def printRange (first last : Index) : List Char :=
  ['['] ++ printNat first.toNat ++ ['.', '.'] ++ printNat last.toNat ++ [']']

/-- Status names as the vectors write them (95_test_vectors.md). -/
def FrameStatus.text : FrameStatus → List Char
  | .inProgress => chars "IN_PROGRESS"
  | .completeAligned => chars "COMPLETE_ALIGNED"
  | .completeUnaligned => chars "COMPLETE_UNALIGNED"
  | .falseCarrier => chars "FALSE_CARRIER"
  | .truncated => chars "TRUNCATED"

/-- Marker kind names (R89). -/
def MarkerKind.text : MarkerKind → List Char
  | .falseCarrier => chars "FALSE_CARRIER"
  | .missingSfd => chars "MISSING_SFD"
  | .dribble => chars "DRIBBLE"
  | .truncated => chars "TRUNCATED"
  | .unexpectedEdgeSpacing => chars "UNEXPECTED_EDGE_SPACING"
  | .runtFrame => chars "RUNT_FRAME"
  | .collisionExtension => chars "COLLISION_EXTENSION"

/-- The text of an event (R93). -/
def printEvent : Event → List Char
  | .clockEdge idx => chars "CE@" ++ printNat idx.toNat
  | .symbolDecoded idx dibit ctrl =>
    chars "SYM@" ++ printNat idx.toNat ++ braced (printDibit dibit ++ [',', bitChar ctrl])
  | .byteDecoded first last value frameRef =>
    chars "BYTE" ++ printRange first last ++
      braced (['0', 'x', hexChar (value.extractLsb' 4 4), hexChar (value.extractLsb' 0 4)] ++
        chars ",ref=" ++ printNat frameRef.toNat)
  | .frameStart idx => chars "FS@" ++ printNat idx.toNat
  | .frameEnd first last status resCount resBits byteCount bodyCount sfdSeen =>
    chars "FE" ++ printRange first last ++
      braced (status.text ++ chars ",res=" ++ printNat resCount.toNat ++ chars ":0b" ++ printBits resBits ++
        chars ",bytes=" ++ printNat byteCount.toNat ++ chars ",body=" ++ printNat bodyCount.toNat ++
        chars ",sfd=" ++ [bitChar sfdSeen])
  | .errorMarker first last kind detail =>
    chars "ERR" ++ printRange first last ++ braced (kind.text ++ chars ",detail=" ++ printNat detail.toNat)

end Sys2Proof.Machine
end

