-- ==== Sys2Proof/Safety.lean ====
section
/-! DEFINITION. Runs of commands and what claims say of them: the output as one sequence of events (20_memory.md R57), the invariants of 10_state.md R33, and counts read off the commands or the events alone, without the machine. -/

namespace Sys2Proof.Machine

/-- An outcome's next value changed, its stops kept. -/
def mapNext {α β : Type} (f : α → β) : Host.Outcome α Fault Refusal → Host.Outcome β Fault Refusal
  | .next a => .next (f a)
  | .fault r => .fault r
  | .refused r => .refused r

/-- A run of commands from a state: the state after it and the events of all its commands, concatenated in command order (20_memory.md R57). -/
def runCommands : State → List Instr → Host.Outcome (State × List Event) Fault Refusal
  | s, [] => .next (s, [])
  | s, i :: p =>
    match exec i s with
    | .next t => mapNext (fun r => (r.1, t.out ++ r.2)) (runCommands t p)
    | .fault r => .fault r
    | .refused r => .refused r

/-- What a consumer of the event port sees of a run: its events, or its stop. -/
def eventsOf (r : Host.Outcome (State × List Event) Fault Refusal) : Host.Outcome (List Event) Fault Refusal :=
  mapNext Prod.snd r

/-- A run's result without the port's last event list. -/
def withoutOut (r : Host.Outcome (State × List Event) Fault Refusal) :
    Host.Outcome (State × List Event) Fault Refusal :=
  mapNext (fun r => (r.1.beginCommand, r.2)) r

/-- The events on the port over a number of cycles, as step gives them, with the state after. -/
def runCycles : Nat → State → Host.Outcome (State × List Event) Fault Refusal
  | 0, s => .next (s, [])
  | k + 1, s =>
    match step s with
    | .next t => mapNext (fun r => (r.1, t.out ++ r.2)) (runCycles k t)
    | .fault r => .fault r
    | .refused r => .refused r

/-- Every register of 10_state.md R22 holds its reset value. -/
structure AtReset (s : State) : Prop where
  havePrev : s.havePrev = false
  prevClk : s.prevClk = false
  lastIdx : s.lastIdx = 0
  haveEdge : s.haveEdge = false
  lastEdgeIdx : s.lastEdgeIdx = 0
  faState : s.faState = .idle
  accCount : s.accCount = 0
  accBits : s.accBits = 0
  accFirstIdx : s.accFirstIdx = 0
  frameStartIdx : s.frameStartIdx = 0
  byteCount : s.byteCount = 0
  bodyCount : s.bodyCount = 0

/-- The invariants I1 to I6 of 10_state.md R33. -/
structure Inv (s : State) : Prop where
  /-- I1: CLOSING is never held between commands. -/
  notClosing : s.faState ≠ .closing
  /-- I2: an idle assembler has empty frame registers. -/
  idleClear : s.faState = .idle →
    s.accCount = 0 ∧ s.accBits = 0 ∧ s.accFirstIdx = 0 ∧ s.frameStartIdx = 0 ∧ s.byteCount = 0 ∧ s.bodyCount = 0
  /-- I3 -/
  preambleBody : s.faState = .preamble → s.bodyCount = 0
  /-- I4: `acc_bits[5:2*acc_count] = 0`. -/
  accHigh : s.accBits >>> (2 * s.accCount.toNat) = 0
  /-- I5 -/
  edgeSampled : s.haveEdge = true → s.havePrev = true ∧ s.lastEdgeIdx ≤ s.lastIdx
  /-- I6 -/
  openAfterEdge : s.frameOpen = true → s.haveEdge = true ∧ s.frameStartIdx ≤ s.lastEdgeIdx

/-- Inv with what the events' ranges need beside it (42_frame_assembler.md R134, R140): the model's own strengthening. -/
structure FrameInv (s : State) : Prop extends Inv s where
  /-- The first buffered dibit was consumed in the open frame, at an edge. -/
  accRange : s.accCount ≠ 0 → s.frameStartIdx ≤ s.accFirstIdx ∧ s.accFirstIdx ≤ s.lastEdgeIdx
  /-- "A frame always holds at least its creating dibit" (R140). -/
  holdsDibit : s.frameOpen = true → s.byteCount ≠ 0 ∨ s.accCount ≠ 0
  /-- The body is part of the frame. -/
  bodyWithin : s.bodyCount ≤ s.byteCount
  /-- IN_FRAME is entered on a completed byte (R135). -/
  inFrameByte : s.faState = .inFrame → s.byteCount ≠ 0

/-- The line and index of the last sample of a state's stream, for the counts below. -/
def State.lastClk (s : State) : Option Bool := if s.havePrev then some s.prevClk else none

/-- The index that the next SAMPLE's index must exceed (40_edge_detector.md R101). -/
def State.lastIndex (s : State) : Option Index := if s.havePrev then some s.lastIdx else none

/-- The number of reference-clock 0→1 transitions between two samples of the same stream (40_edge_detector.md R104), read off the commands alone. -/
def clockTransitions : Option Bool → List Instr → Nat
  | _, [] => 0
  | _, .reset :: p => clockTransitions none p
  | prev, .nop :: p => clockTransitions prev p
  | prev, .sample clk _ _ _ :: p =>
      (if prev = some false ∧ clk = true then 1 else 0) + clockTransitions (some clk) p
  | _, .eos :: p => clockTransitions none p

/-- The number of dibits consumed by the frame open after a list of commands, read off the commands alone: the edges with CTRL = 1 since the last edge with CTRL = 0 (42_frame_assembler.md R138). -/
def openFrameDibits : Option Bool → Nat → List Instr → Nat
  | _, n, [] => n
  | _, _, .reset :: p => openFrameDibits none 0 p
  | prev, n, .nop :: p => openFrameDibits prev n p
  | prev, n, .sample clk ctrl _ _ :: p =>
      openFrameDibits (some clk)
        (if prev = some false ∧ clk = true then (if ctrl then n + 1 else 0) else n) p
  | _, _, .eos :: p => openFrameDibits none 0 p

/-- The event is a ClockEdge. -/
def Event.isClockEdge : Event → Bool
  | .clockEdge _ => true
  | .symbolDecoded _ _ _ => false
  | .byteDecoded _ _ _ _ => false
  | .frameStart _ => false
  | .frameEnd _ _ _ _ _ _ _ _ => false
  | .errorMarker _ _ _ _ => false

/-- The event is a ByteDecoded. -/
def Event.isByteDecoded : Event → Bool
  | .clockEdge _ => false
  | .symbolDecoded _ _ _ => false
  | .byteDecoded _ _ _ _ => true
  | .frameStart _ => false
  | .frameEnd _ _ _ _ _ _ _ _ => false
  | .errorMarker _ _ _ _ => false

/-- The event is a FrameStart. -/
def Event.isFrameStart : Event → Bool
  | .clockEdge _ => false
  | .symbolDecoded _ _ _ => false
  | .byteDecoded _ _ _ _ => false
  | .frameStart _ => true
  | .frameEnd _ _ _ _ _ _ _ _ => false
  | .errorMarker _ _ _ _ => false

/-- The event is a FrameEnd. -/
def Event.isFrameEnd : Event → Bool
  | .clockEdge _ => false
  | .symbolDecoded _ _ _ => false
  | .byteDecoded _ _ _ _ => false
  | .frameStart _ => false
  | .frameEnd _ _ _ _ _ _ _ _ => true
  | .errorMarker _ _ _ _ => false

/-- The event is a SymbolDecoded. -/
def Event.isSymbolDecoded : Event → Bool
  | .clockEdge _ => false
  | .symbolDecoded _ _ _ => true
  | .byteDecoded _ _ _ _ => false
  | .frameStart _ => false
  | .frameEnd _ _ _ _ _ _ _ _ => false
  | .errorMarker _ _ _ _ => false

/-- The event is an ErrorMarker of a kind. -/
def Event.isMarker (kind : MarkerKind) : Event → Bool
  | .clockEdge _ => false
  | .symbolDecoded _ _ _ => false
  | .byteDecoded _ _ _ _ => false
  | .frameStart _ => false
  | .frameEnd _ _ _ _ _ _ _ _ => false
  | .errorMarker _ _ k _ => k == kind

/-- The events of a clock edge before the FrameAssembler's, written out as a list (30_encoding.md R79 items 1 to 3, 43_error_classifier.md R185). -/
def edgeEvents (s : State) (idx : Index) (ctrl : Bool) (dibit : Dibit) : List Event :=
  .clockEdge idx ::
    (if s.haveEdge = true ∧ (idx - s.lastEdgeIdx < s.cfg.edgeDeltaMin ∨ s.cfg.edgeDeltaMax < idx - s.lastEdgeIdx)
      then [.errorMarker s.lastEdgeIdx idx .unexpectedEdgeSpacing (idx - s.lastEdgeIdx)] else []) ++
    [.symbolDecoded idx dibit ctrl]

/-- The events of a close by deassertion, written out as a list (42_frame_assembler.md R139, R140; 43_error_classifier.md R180). -/
def deassertEvents (s : State) (last : Index) : List Event :=
  let first := s.frameStartIdx
  let dibits : BitVec 64 := s.accCount.zeroExtend 64
  let sfd : Bool := decide (s.faState = .inFrame)
  let frameEnd (status : FrameStatus) : Event :=
    .frameEnd first last status s.accCount s.accBits s.byteCount s.bodyCount sfd
  (if s.byteCount = 0 then [frameEnd .falseCarrier, .errorMarker first last .falseCarrier dibits]
    else if s.accCount = 0 then [frameEnd .completeAligned]
    else [frameEnd .completeUnaligned, .errorMarker first last .dribble dibits]) ++
  (if sfd = false ∧ s.cfg.preambleBudget < s.byteCount
    then [.errorMarker first last .missingSfd (s.byteCount.zeroExtend 64)] else []) ++
  (if s.byteCount ≠ 0 ∧ sfd = true ∧ s.bodyCount < s.cfg.runtMinBytes
    then [.errorMarker first last .runtFrame (s.bodyCount.zeroExtend 64)] else [])

/-- The events of a close at the end of the stream, written out as a list (44_stream_control.md R201, R202). -/
def truncatedEvents (s : State) : List Event :=
  let first := s.frameStartIdx
  let sfd : Bool := decide (s.faState = .inFrame)
  [.frameEnd first s.lastIdx .truncated s.accCount s.accBits s.byteCount s.bodyCount sfd,
   .errorMarker first s.lastIdx .truncated (s.accCount.zeroExtend 64)] ++
  (if sfd = false ∧ s.cfg.preambleBudget < s.byteCount
    then [.errorMarker first s.lastIdx .missingSfd (s.byteCount.zeroExtend 64)] else [])

/-- The place of an event in the canonical order of one command's events (30_encoding.md R79, 43_error_classifier.md R186). -/
def Event.rank : Event → Nat
  | .clockEdge _ => 0
  | .errorMarker _ _ .unexpectedEdgeSpacing _ => 1
  | .symbolDecoded _ _ _ => 2
  | .frameStart _ => 3
  | .byteDecoded _ _ _ _ => 3
  | .frameEnd _ _ _ _ _ _ _ _ => 3
  | .errorMarker _ _ .falseCarrier _ => 4
  | .errorMarker _ _ .dribble _ => 4
  | .errorMarker _ _ .truncated _ => 4
  | .errorMarker _ _ .missingSfd _ => 5
  | .errorMarker _ _ .runtFrame _ => 6
  | .errorMarker _ _ .collisionExtension _ => 7

/-- At most one frame is open at a time in a sequence of events (42_frame_assembler.md R143), starting with one open or not: whether one is open at the end, or none if a FrameStart comes inside a frame or a FrameEnd outside one. -/
def frameOpenAfter : Bool → List Event → Option Bool
  | isOpen, [] => some isOpen
  | isOpen, .clockEdge _ :: es => frameOpenAfter isOpen es
  | isOpen, .symbolDecoded _ _ _ :: es => frameOpenAfter isOpen es
  | isOpen, .byteDecoded _ _ _ _ :: es => if isOpen then frameOpenAfter true es else none
  | isOpen, .frameStart _ :: es => if isOpen then none else frameOpenAfter true es
  | isOpen, .frameEnd _ _ _ _ _ _ _ _ :: es => if isOpen then frameOpenAfter false es else none
  | isOpen, .errorMarker _ _ _ _ :: es => frameOpenAfter isOpen es

/-- A frame as its events show it: its FrameStart's index and its ByteDecoded events so far. -/
structure SeenFrame where
  start : Index
  bytes : Nat
deriving DecidableEq, Repr

/-- The events of each frame agree (20_memory.md R61, 30_encoding.md R84, R86): every ByteDecoded carries its frame's start index as `frame_ref`, and the FrameEnd carries that index and the (saturated) number of ByteDecoded events between them, none for a false carrier. The frame open at the end, or none if some frame's events disagree. -/
def framesAgree : Option SeenFrame → List Event → Option (Option SeenFrame)
  | f, [] => some f
  | f, .clockEdge _ :: es => framesAgree f es
  | f, .symbolDecoded _ _ _ :: es => framesAgree f es
  | none, .byteDecoded _ _ _ _ :: _ => none
  | some f, .byteDecoded _ _ _ frameRef :: es =>
      if frameRef = f.start then framesAgree (some { f with bytes := f.bytes + 1 }) es else none
  | none, .frameStart idx :: es => framesAgree (some { start := idx, bytes := 0 }) es
  | some _, .frameStart _ :: _ => none
  | none, .frameEnd _ _ _ _ _ _ _ _ :: _ => none
  | some f, .frameEnd first _ status _ _ byteCount _ _ :: es =>
      if first = f.start ∧ byteCount.toNat = min f.bytes (2 ^ 32 - 1) ∧ (status = .falseCarrier → f.bytes = 0)
      then framesAgree none es else none
  | f, .errorMarker _ _ _ _ :: es => framesAgree f es

/-- Every FrameStart of a sequence of events has its FrameEnd before the next FrameStart; `awaiting` says that a FrameStart before the sequence still has none (44_stream_control.md R204). A FrameEnd of a frame that the sequence did not start is no FrameStart's. -/
def everyFrameEnds : Bool → List Event → Bool
  | awaiting, [] => !awaiting
  | awaiting, .clockEdge _ :: es => everyFrameEnds awaiting es
  | awaiting, .symbolDecoded _ _ _ :: es => everyFrameEnds awaiting es
  | awaiting, .byteDecoded _ _ _ _ :: es => everyFrameEnds awaiting es
  | awaiting, .frameStart _ :: es => !awaiting && everyFrameEnds true es
  | _, .frameEnd _ _ _ _ _ _ _ _ :: es => everyFrameEnds false es
  | awaiting, .errorMarker _ _ _ _ :: es => everyFrameEnds awaiting es

/-- The end-of-run definition of 44_stream_control.md R204: the run is not refused, its last command is EOS, and every FrameStart in it has its FrameEnd. A run that ends without EOS (60_exceptions.md R226 H4) or whose RESET abandons a frame (70_reset_and_hazards.md R250) is not finished. -/
def finishedRun (s : State) (p : List Instr) : Bool :=
  endsWithEos p &&
    match runCommands s p with
    | .next (_, evs) => everyFrameEnds false evs
    | .fault _ => false
    | .refused _ => false

/-- A list of commands without RESET, which abandons a frame (70_reset_and_hazards.md R250). -/
def noReset : List Instr → Bool
  | [] => true
  | .reset :: _ => false
  | .nop :: p => noReset p
  | .sample _ _ _ _ :: p => noReset p
  | .eos :: p => noReset p

/-- A list of commands inside one stream: SAMPLE and NOP only. -/
def withinStream : List Instr → Bool
  | [] => true
  | .reset :: _ => false
  | .nop :: p => withinStream p
  | .sample _ _ _ _ :: p => withinStream p
  | .eos :: _ => false

/-- The list without its NOPs. -/
def dropNops : List Instr → List Instr
  | [] => []
  | .reset :: p => .reset :: dropNops p
  | .nop :: p => dropNops p
  | .sample clk ctrl dibit idx :: p => .sample clk ctrl dibit idx :: dropNops p
  | .eos :: p => .eos :: dropNops p

end Sys2Proof.Machine
end

