-- ==== Sys2Proof/Certificates/Slice0/Obligations.lean ====
section
/-! DEFINITION. The statements for the provers. Each names the rule of spec/ it formalises. A state is any state unless a hypothesis says otherwise; every statement holds for every configuration. -/

open Sys2Proof Sys2Proof.Machine

/-! ### Reset -/

/-- 70_reset_and_hazards.md R250: a cycle with `rst = 1`, whatever else the port drives, the configuration inputs included. -/
def Obligations.ResetCycleClearsEveryRegister : Prop :=
  ∀ (s : State) (c : PortCycle) (rest : List PortCycle), s.input = c :: rest → c.rst = true →
    ∃ t, step s = .next t ∧ AtReset t ∧ t.out = [] ∧ t.outCount = 0

/-- 70_reset_and_hazards.md R250 as a command: every register of 10_state.md R22 at its reset value, no event, the configuration and the host's coming cycles untouched. -/
def Obligations.ResetCommandCompletes : Prop :=
  ∀ s : State, exec .reset s = .next
    { havePrev := false, prevClk := false, lastIdx := 0, haveEdge := false, lastEdgeIdx := 0
      faState := .idle, accCount := 0, accBits := 0, accFirstIdx := 0, frameStartIdx := 0
      byteCount := 0, bodyCount := 0, out := [], cfg := s.cfg, input := s.input }

/-- 10_state.md R22, 70_reset_and_hazards.md R251: the state after reset. That its configuration is REF and its input empty is the model's choice (logs 1 and 2) and not stated here. -/
def Obligations.ResetStateRegisters : Prop :=
  AtReset State.reset ∧ State.reset.out = [] ∧ State.reset.frameOpen = false ∧ State.reset.carrierPrev = false

/-! ### Stream control -/

/-- 44_stream_control.md R200: a NOP writes no register and emits nothing. -/
def Obligations.NopChangesOnlyThePort : Prop :=
  ∀ s : State, exec .nop s = .next { s with out := [] }

/-- 44_stream_control.md R201, R202: EOS closes an open frame as Truncated at `last_idx`, and writes every register; with no frame open it emits nothing. -/
def Obligations.EosClosesAndReinitialises : Prop :=
  ∀ s : State, exec .eos s = .next
    { havePrev := false, prevClk := false, lastIdx := 0, haveEdge := false, lastEdgeIdx := 0
      faState := .idle, accCount := 0, accBits := 0, accFirstIdx := 0, frameStartIdx := 0
      byteCount := 0, bodyCount := 0, cfg := s.cfg, input := s.input
      out :=
        if s.faState = .idle then []
        else
          [.frameEnd s.frameStartIdx s.lastIdx .truncated s.accCount s.accBits s.byteCount s.bodyCount
              (decide (s.faState = .inFrame)),
            .errorMarker s.frameStartIdx s.lastIdx .truncated (s.accCount.zeroExtend 64)] ++
          (if s.faState ≠ .inFrame ∧ s.cfg.preambleBudget < s.byteCount
            then [.errorMarker s.frameStartIdx s.lastIdx .missingSfd (s.byteCount.zeroExtend 64)] else []) }

/-- 44_stream_control.md R203: after EOS the next SAMPLE is the first of a new stream: no edge, and no index of the old stream refuses it. -/
def Obligations.EosBeginsANewStream : Prop :=
  ∀ s : State, ∃ t, exec .eos s = .next t ∧ AtReset t ∧
    ∀ (clk ctrl : Bool) (dibit : Dibit) (idx : Index),
      exec (.sample clk ctrl dibit idx) t =
        .next { t with havePrev := true, prevClk := clk, lastIdx := idx, out := [] }

/-- 44_stream_control.md R200: NOPs anywhere in a run change neither its events nor any register. -/
def Obligations.NopsChangeNothing : Prop :=
  (∀ s : State, exec .nop s = .next { s with out := [] }) ∧
  ∀ (s : State) (p : List Instr), withoutOut (runCommands s p) = withoutOut (runCommands s (dropNops p))

/-! ### SAMPLE: the precondition and the edge detector -/

/-- 40_edge_detector.md R101: when SAMPLE is refused, and that it completes otherwise, whatever the gap between the indices. (`fa_state = CLOSING` is held in no state between commands, R33 I1.) -/
def Obligations.SampleRefusedExactlyOnNonIncreasingIndex : Prop :=
  ∀ (s : State) (clk ctrl : Bool) (dibit : Dibit) (idx : Index),
    (exec (.sample clk ctrl dibit idx) s = .refused .nonIncreasingIndex ↔
      s.havePrev = true ∧ idx ≤ s.lastIdx) ∧
    (s.faState ≠ .closing → ¬ (s.havePrev = true ∧ idx ≤ s.lastIdx) →
      ∃ t, exec (.sample clk ctrl dibit idx) s = .next t)

/-- The model's own choice (log 5): an edge dispatched in CLOSING, which R130 says cannot occur, stops. -/
def Obligations.EdgeInClosingStops : Prop :=
  ∀ (s : State) (ctrl : Bool) (dibit : Dibit) (idx : Index),
    s.faState = .closing → s.havePrev = true → s.prevClk = false → s.lastIdx < idx →
    exec (.sample true ctrl dibit idx) s = .fault .closingAtDispatch

/-- 40_edge_detector.md R102, R104: an accepted SAMPLE emits ClockEdge, as its first event and with range `[idx, idx]`, exactly when a previous sample exists, showed REF_CLK = 0, and this one shows 1; otherwise it emits nothing. -/
def Obligations.ClockEdgeExactlyOnRisingSample : Prop :=
  ∀ (s : State) (clk ctrl : Bool) (dibit : Dibit) (idx : Index) (t : State),
    exec (.sample clk ctrl dibit idx) s = .next t →
    (if s.havePrev = true ∧ s.prevClk = false ∧ clk = true
      then t.out.head? = some (.clockEdge idx) ∧ t.out.tail.all (fun e => !e.isClockEdge) = true
      else t.out = [])

/-- 40_edge_detector.md R103: the first SAMPLE of a stream, which RESET and EOS begin, is never an edge, and after a first sample with REF_CLK = 1 there is none until REF_CLK has been sampled 0. -/
def Obligations.FirstSampleIsNeverAnEdge : Prop :=
  ∀ (s : State) (clk ctrl : Bool) (dibit : Dibit) (idx : Index),
    (s.havePrev = false → exec (.sample clk ctrl dibit idx) s =
      .next { s with havePrev := true, prevClk := clk, lastIdx := idx, out := [] }) ∧
    (s.havePrev = true → s.prevClk = true → s.lastIdx < idx → exec (.sample clk ctrl dibit idx) s =
      .next { s with prevClk := clk, lastIdx := idx, out := [] }) ∧
    (∀ t, exec .reset s = .next t ∨ exec .eos s = .next t → t.havePrev = false)

/-- 40_edge_detector.md R105: every SAMPLE that is not refused writes the prior state, edge or not, whatever the frame state. -/
def Obligations.AcceptedSampleWritesPriorState : Prop :=
  ∀ (s : State) (clk ctrl : Bool) (dibit : Dibit) (idx : Index),
    s.faState ≠ .closing → ¬ (s.havePrev = true ∧ idx ≤ s.lastIdx) →
    ∃ t, exec (.sample clk ctrl dibit idx) s = .next t ∧
      t.havePrev = true ∧ t.prevClk = clk ∧ t.lastIdx = idx

/-- 40_edge_detector.md R100, R106: a SAMPLE that is no edge writes `prev_clk`, `have_prev` and `last_idx`, and nothing else; its CTRL and data lines have no effect. -/
def Obligations.LevelSampleWritesOnlyPriorState : Prop :=
  ∀ (s : State) (clk ctrl : Bool) (dibit : Dibit) (idx : Index),
    ¬ (s.havePrev = true ∧ idx ≤ s.lastIdx) →
    ¬ (s.havePrev = true ∧ s.prevClk = false ∧ clk = true) →
    exec (.sample clk ctrl dibit idx) s =
      .next { s with havePrev := true, prevClk := clk, lastIdx := idx, out := [] }

/-! ### SAMPLE at an edge: symbol, spacing, frame -/

/-- 41_symbol_extractor.md R121: on every edge exactly one SymbolDecoded, with the edge sample's own dibit and control bit; none otherwise. -/
def Obligations.OneSymbolPerEdge : Prop :=
  ∀ (s : State) (clk ctrl : Bool) (dibit : Dibit) (idx : Index) (t : State),
    exec (.sample clk ctrl dibit idx) s = .next t →
    t.out.filter Event.isSymbolDecoded =
      if s.havePrev = true ∧ s.prevClk = false ∧ clk = true then [.symbolDecoded idx dibit ctrl] else []

/-- 43_error_classifier.md R185: the spacing marker of an edge, its range and detail and its place between ClockEdge and SymbolDecoded; the first edge of a stream is never checked; with `EDGE_DELTA_MIN > EDGE_DELTA_MAX` every checked edge is marked. -/
def Obligations.EdgeSpacingMarkedExactlyWhenImplausible : Prop :=
  ∀ (s : State) (ctrl : Bool) (dibit : Dibit) (idx : Index) (t : State),
    s.havePrev = true → s.prevClk = false → exec (.sample true ctrl dibit idx) s = .next t →
    (if s.haveEdge = true ∧
        (idx - s.lastEdgeIdx < s.cfg.edgeDeltaMin ∨ s.cfg.edgeDeltaMax < idx - s.lastEdgeIdx)
      then t.out.take 3 = [.clockEdge idx,
        .errorMarker s.lastEdgeIdx idx .unexpectedEdgeSpacing (idx - s.lastEdgeIdx), .symbolDecoded idx dibit ctrl]
      else t.out.take 2 = [.clockEdge idx, .symbolDecoded idx dibit ctrl] ∧
        t.out.all (fun e => !e.isMarker .unexpectedEdgeSpacing) = true) ∧
    (s.haveEdge = true → s.cfg.edgeDeltaMax < s.cfg.edgeDeltaMin →
      t.out.any (Event.isMarker .unexpectedEdgeSpacing) = true) ∧
    t.haveEdge = true ∧ t.lastEdgeIdx = idx

/-- 42_frame_assembler.md R131: in IDLE an edge with `ctrl = 0` leaves the FrameAssembler unchanged and emits nothing from it. -/
def Obligations.IdleEdgeWithoutCarrierChangesNoFrame : Prop :=
  ∀ (s : State) (dibit : Dibit) (idx : Index),
    s.havePrev = true → s.prevClk = false → s.lastIdx < idx → s.faState = .idle →
    exec (.sample true false dibit idx) s =
      .next { s with
        prevClk := true, lastIdx := idx, haveEdge := true, lastEdgeIdx := idx
        out := edgeEvents s idx false dibit }

/-- 42_frame_assembler.md R132: in IDLE an edge with `ctrl = 1` creates a frame and its dibit is the frame's first. -/
def Obligations.CarrierStartsAFrame : Prop :=
  ∀ (s : State) (dibit : Dibit) (idx : Index),
    s.havePrev = true → s.prevClk = false → s.lastIdx < idx → s.faState = .idle →
    exec (.sample true true dibit idx) s =
      .next { s with
        prevClk := true, lastIdx := idx, haveEdge := true, lastEdgeIdx := idx
        faState := .preamble, frameStartIdx := idx, accCount := 1, accBits := 0#4 ++ dibit
        accFirstIdx := idx, byteCount := 0, bodyCount := 0
        out := edgeEvents s idx true dibit ++ [.frameStart idx] }

/-- 42_frame_assembler.md R133, first to third dibit: it goes to its own place of the accumulator, the others stay, and no other frame register changes. -/
def Obligations.DibitIsBuffered : Prop :=
  ∀ (s : State) (dibit : Dibit) (idx : Index),
    s.havePrev = true → s.prevClk = false → s.lastIdx < idx →
    (s.faState = .preamble ∨ s.faState = .inFrame) → s.accCount ≠ 3 →
    ∃ bits : BitVec 6,
      exec (.sample true true dibit idx) s =
        .next { s with
          prevClk := true, lastIdx := idx, haveEdge := true, lastEdgeIdx := idx
          accCount := s.accCount + 1, accBits := bits
          accFirstIdx := if s.accCount = 0 then idx else s.accFirstIdx
          out := edgeEvents s idx true dibit } ∧
      ∀ k : Nat, k < 3 →
        bits.extractLsb' (2 * k) 2 = if k = s.accCount.toNat then dibit else s.accBits.extractLsb' (2 * k) 2

/-- 42_frame_assembler.md R134, R135, R136: the fourth dibit completes a byte: its value and range, both saturating counts, the SFD recognised in PREAMBLE only, the accumulator cleared. -/
def Obligations.FourthDibitCompletesAByte : Prop :=
  ∀ (s : State) (dibit : Dibit) (idx : Index),
    s.havePrev = true → s.prevClk = false → s.lastIdx < idx →
    (s.faState = .preamble ∨ s.faState = .inFrame) → s.accCount = 3 →
    exec (.sample true true dibit idx) s =
      .next { s with
        prevClk := true, lastIdx := idx, haveEdge := true, lastEdgeIdx := idx
        faState := if s.faState = .preamble ∧ dibit ++ s.accBits = 0xD5#8 then .inFrame else s.faState
        byteCount := if s.byteCount = 0xFFFFFFFF then 0xFFFFFFFF else s.byteCount + 1
        bodyCount :=
          if s.faState = .preamble then s.bodyCount
          else if s.bodyCount = 0xFFFFFFFF then 0xFFFFFFFF else s.bodyCount + 1
        accCount := 0, accBits := 0, accFirstIdx := 0
        out := edgeEvents s idx true dibit ++
          [.byteDecoded s.accFirstIdx idx (dibit ++ s.accBits) s.frameStartIdx] }

/-- 42_frame_assembler.md R137, R139, R140, R141: in PREAMBLE or IN_FRAME an edge with `ctrl = 0` closes the frame in the same command; its dibit is not consumed; the frame registers return to 0. -/
def Obligations.DeassertionClosesTheFrame : Prop :=
  ∀ (s : State) (dibit : Dibit) (idx : Index),
    s.havePrev = true → s.prevClk = false → s.lastIdx < idx →
    (s.faState = .preamble ∨ s.faState = .inFrame) →
    exec (.sample true false dibit idx) s =
      .next { s with
        prevClk := true, lastIdx := idx, haveEdge := true, lastEdgeIdx := idx
        faState := .idle, accCount := 0, accBits := 0, accFirstIdx := 0
        frameStartIdx := 0, byteCount := 0, bodyCount := 0
        out := edgeEvents s idx false dibit ++ deassertEvents s idx }

/-- 42_frame_assembler.md R140, 43_error_classifier.md R186: the status of every FrameEnd, the first matching row. The FrameEnd's other fields are the registers before the command. -/
def Obligations.FrameEndStatusIsTheFirstMatchingRow : Prop :=
  ∀ (i : Instr) (s t : State) (first last : Index) (status : FrameStatus) (resCount : BitVec 2)
    (resBits : BitVec 6) (byteCount bodyCount : Count) (sfdSeen : Bool),
    exec i s = .next t →
    .frameEnd first last status resCount resBits byteCount bodyCount sfdSeen ∈ t.out →
    status = (if i = .eos then .truncated
      else if s.byteCount = 0 then .falseCarrier
      else if s.accCount = 0 then .completeAligned
      else .completeUnaligned) ∧
    first = s.frameStartIdx ∧ resCount = s.accCount ∧ resBits = s.accBits ∧
    byteCount = s.byteCount ∧ bodyCount = s.bodyCount ∧ sfdSeen = s.sfdSeen ∧
    last = (if i = .eos then s.lastIdx else t.lastIdx)

/-- 43_error_classifier.md R182: MISSING_SFD at any close exactly when the SFD was never recognised and more than `PREAMBLE_BUDGET` bytes completed, with the frame's range and `byte_count`; with `PREAMBLE_BUDGET = 0xFFFFFFFF` never; and it follows a FrameEnd only. -/
def Obligations.MissingSfdExactlyAtCloseOverBudget : Prop :=
  ∀ (i : Instr) (s t : State), exec i s = .next t →
    (∀ (first last : Index) (status : FrameStatus) (resCount : BitVec 2) (resBits : BitVec 6)
        (byteCount bodyCount : Count) (sfdSeen : Bool),
      .frameEnd first last status resCount resBits byteCount bodyCount sfdSeen ∈ t.out →
      t.out.filter (Event.isMarker .missingSfd) =
        if sfdSeen = false ∧ s.cfg.preambleBudget < byteCount
        then [.errorMarker first last .missingSfd (byteCount.zeroExtend 64)] else []) ∧
    (s.cfg.preambleBudget = 0xFFFFFFFF → t.out.all (fun e => !e.isMarker .missingSfd) = true) ∧
    (t.out.any Event.isFrameEnd = false → t.out.all (fun e => !e.isMarker .missingSfd) = true)

/-- 43_error_classifier.md R183: RUNT_FRAME exactly at a complete close after the SFD with fewer than `RUNT_MIN_BYTES` body bytes, with the frame's range and `body_count`; with `RUNT_MIN_BYTES = 0` never; and it follows a FrameEnd only. -/
def Obligations.RuntExactlyAtShortCompleteClose : Prop :=
  ∀ (i : Instr) (s t : State), exec i s = .next t →
    (∀ (first last : Index) (status : FrameStatus) (resCount : BitVec 2) (resBits : BitVec 6)
        (byteCount bodyCount : Count) (sfdSeen : Bool),
      .frameEnd first last status resCount resBits byteCount bodyCount sfdSeen ∈ t.out →
      t.out.filter (Event.isMarker .runtFrame) =
        if (status = .completeAligned ∨ status = .completeUnaligned) ∧ sfdSeen = true ∧
            bodyCount < s.cfg.runtMinBytes
        then [.errorMarker first last .runtFrame (bodyCount.zeroExtend 64)] else []) ∧
    (s.cfg.runtMinBytes = 0 → t.out.all (fun e => !e.isMarker .runtFrame) = true) ∧
    (t.out.any Event.isFrameEnd = false → t.out.all (fun e => !e.isMarker .runtFrame) = true)

/-- 43_error_classifier.md R181, R184: the marker that repeats each FrameEnd's status, with the leftover dibits as its detail, and no other status marker. -/
def Obligations.StatusMarkerRepeatsTheStatus : Prop :=
  ∀ (i : Instr) (s t : State) (first last : Index) (status : FrameStatus) (resCount : BitVec 2)
    (resBits : BitVec 6) (byteCount bodyCount : Count) (sfdSeen : Bool),
    exec i s = .next t →
    .frameEnd first last status resCount resBits byteCount bodyCount sfdSeen ∈ t.out →
    t.out.filter (Event.isMarker .falseCarrier) =
      (if status = .falseCarrier then [.errorMarker first last .falseCarrier (resCount.zeroExtend 64)] else []) ∧
    t.out.filter (Event.isMarker .dribble) =
      (if status = .completeUnaligned then [.errorMarker first last .dribble (resCount.zeroExtend 64)] else []) ∧
    t.out.filter (Event.isMarker .truncated) =
      (if status = .truncated then [.errorMarker first last .truncated (resCount.zeroExtend 64)] else []) ∧
    (status = .completeUnaligned → 1 ≤ resCount)

/-! ### The event list of one command -/

/-- 30_encoding.md R79, 43_error_classifier.md R186: the canonical order. -/
def Obligations.EventsInCanonicalOrder : Prop :=
  ∀ (i : Instr) (s t : State), exec i s = .next t → t.out.Pairwise (fun a b => a.rank < b.rank)

/-- 30_encoding.md R78: a command produces at most 6 events, `out_count` counts them, lane k carries the k-th, and the lanes at or above `out_count` are all zeros. -/
def Obligations.AtMostSixEventsOnSixLanes : Prop :=
  ∀ (i : Instr) (s t : State), exec i s = .next t →
    t.out.length ≤ 6 ∧ t.outCount.toNat = t.out.length ∧
    (∀ k e, t.out[k]? = some e → t.outEv k = e.encode) ∧
    (∀ k, t.outCount.toNat ≤ k → t.outEv k = 0)

/-- 30_encoding.md R80, R90, 42_frame_assembler.md R134: from a state that meets the invariant, every event has `start_idx ≤ end_idx`, a byte's strictly so; no reserved status or kind is emitted; a DRIBBLE or FALSE_CARRIER marker counts 1 to 3 dibits. -/
def Obligations.EmittedEventsAreWellFormed : Prop :=
  ∀ (i : Instr) (s t : State), FrameInv s → exec i s = .next t → ∀ e ∈ t.out,
    e.startIdx ≤ e.endIdx ∧ e.emittable = true ∧ (e.isByteDecoded = true → e.startIdx < e.endIdx) ∧
    (∀ first last detail,
      e = .errorMarker first last .dribble detail ∨ e = .errorMarker first last .falseCarrier detail →
      1 ≤ detail ∧ detail ≤ 3)

/-- 43_error_classifier.md R180, 44_stream_control.md R201, 40_edge_detector.md R100: how many events each command can produce. -/
def Obligations.EventCountsPerCommand : Prop :=
  ∀ (i : Instr) (s t : State), exec i s = .next t →
    match i with
    | .reset => t.out.length = 0
    | .nop => t.out.length = 0
    | .sample clk _ _ _ =>
      if s.havePrev = true ∧ s.prevClk = false ∧ clk = true then 2 ≤ t.out.length ∧ t.out.length ≤ 6
      else t.out.length = 0
    | .eos => if s.faState = .idle then t.out.length = 0 else t.out.length = 2 ∨ t.out.length = 3

/-- 42_frame_assembler.md R132, R135, R137, R144: a frame opens only at an edge with `ctrl = 1`, and into PREAMBLE; it ends only by RESET, EOS or an edge with `ctrl = 0`; IN_FRAME is entered only from PREAMBLE by a completed byte 0xD5, and left only by the frame's end. -/
def Obligations.FrameStateChangesOnlyAsStated : Prop :=
  ∀ (i : Instr) (s t : State), exec i s = .next t →
    (s.frameOpen = false → t.frameOpen = true →
      t.faState = .preamble ∧
      ∃ dibit idx, i = .sample true true dibit idx ∧ s.havePrev = true ∧ s.prevClk = false) ∧
    (s.frameOpen = true → t.frameOpen = false →
      i = .reset ∨ i = .eos ∨
      ∃ dibit idx, i = .sample true false dibit idx ∧ s.havePrev = true ∧ s.prevClk = false) ∧
    (s.faState ≠ .inFrame → t.faState = .inFrame →
      s.faState = .preamble ∧ ∃ first last, .byteDecoded first last 0xD5 s.frameStartIdx ∈ t.out) ∧
    (s.faState = .inFrame → t.faState ≠ .inFrame → t.faState = .idle)

/-- No command writes the configuration (10_state.md R34) or the host's coming cycles. -/
def Obligations.CommandsLeaveConfigurationAndInput : Prop :=
  ∀ (i : Instr) (s t : State), exec i s = .next t → t.cfg = s.cfg ∧ t.input = s.input

/-! ### Encodings -/

/-- 30_encoding.md R72: the decoder is total; the first matching row wins. -/
def Obligations.FirstMatchingRowDecodes : Prop :=
  ∀ (w : CommandWord) (inIdx : Index),
    (w &&& 0x40 = 0x40 → decode w inIdx = .reset) ∧
    (w &&& 0x60 = 0x00 → decode w inIdx = .nop) ∧
    (w &&& 0x70 = 0x20 → decode w inIdx =
      .sample (w.getLsbD 3) (w.getLsbD 2) (w.extractLsb' 0 2) inIdx) ∧
    (w &&& 0x70 = 0x30 → decode w inIdx = .eos) ∧
    (w &&& 0x40 = 0x40 ∨ w &&& 0x60 = 0x00 ∨ w &&& 0x70 = 0x20 ∨ w &&& 0x70 = 0x30)

/-- 30_encoding.md R73: no ignored bit changes any state or any event, in any state. -/
def Obligations.IgnoredBitsChangeNothing : Prop :=
  ∀ (s : State) (w v : CommandWord) (x y : Index),
    ((w &&& 0x40 = 0x40 ∧ v &&& 0x40 = 0x40) ∨ (w &&& 0x60 = 0 ∧ v &&& 0x60 = 0) ∨
      (w &&& 0x70 = 0x30 ∧ v &&& 0x70 = 0x30)) →
    exec (decode w x) s = exec (decode v y) s

/-- 30_encoding.md R77: the hex ranges of the four commands. -/
def Obligations.CommandWordRanges : Prop :=
  ∀ (w : CommandWord) (inIdx : Index),
    (decode w inIdx = .nop ↔ w.toNat ≤ 0x1F) ∧
    ((∃ clk ctrl dibit, decode w inIdx = .sample clk ctrl dibit inIdx) ↔ 0x20 ≤ w.toNat ∧ w.toNat ≤ 0x2F) ∧
    (decode w inIdx = .eos ↔ 0x30 ≤ w.toNat ∧ w.toNat ≤ 0x3F) ∧
    (decode w inIdx = .reset ↔ 0x40 ≤ w.toNat)

/-- Words written out bit by bit from R71, R72 and the vectors of 95_test_vectors.md 2.1. -/
def Obligations.WrittenOutWordsDecode : Prop :=
  decode 0b1000000 0 = .reset ∧ decode 0b1111111 9 = .reset ∧
  decode 0b0000000 0 = .nop ∧ decode 0b0011111 9 = .nop ∧
  decode 0b0110000 0 = .eos ∧ decode 0b0111111 9 = .eos ∧
  decode 0b0101101 7 = .sample true true 0b01 7 ∧ decode 0b0101011 0 = .sample true false 0b11 0 ∧
  decode 0b0100110 5 = .sample false true 0b10 5 ∧ decode 0b0100000 0 = .sample false false 0b00 0

/-- Decode and encode agree: every command, with every operand at every value, is what its canonical word and index decode to (30_encoding.md R71 to R77). -/
def Obligations.DecodeOfEncode : Prop :=
  ∀ i : Instr, decode (encode i).1 (encode i).2 = i

/-- 30_encoding.md R80 to R89: the codes, where each field of an event stands in its 260-bit word, and the bits that are 0. -/
def Obligations.EventWordFields : Prop :=
  (FrameStatus.code .completeAligned = 1 ∧ FrameStatus.code .completeUnaligned = 2 ∧
    FrameStatus.code .falseCarrier = 3 ∧ FrameStatus.code .truncated = 4) ∧
  (MarkerKind.code .falseCarrier = 1 ∧ MarkerKind.code .missingSfd = 2 ∧ MarkerKind.code .dribble = 3 ∧
    MarkerKind.code .truncated = 4 ∧ MarkerKind.code .unexpectedEdgeSpacing = 5 ∧ MarkerKind.code .runtFrame = 6) ∧
  ∀ e : Event,
    let ev := e.encode
    let type : BitVec 4 := ev.extractLsb' 0 4
    let start : Index := ev.extractLsb' 4 64
    let stop : Index := ev.extractLsb' 68 64
    let p : BitVec 128 := ev.extractLsb' 132 128
    match e with
    | .clockEdge idx => type = 0 ∧ start = idx ∧ stop = idx ∧ p = 0
    | .symbolDecoded idx dibit ctrl =>
      type = 1 ∧ start = idx ∧ stop = idx ∧ p.extractLsb' 0 2 = dibit ∧ p.getLsbD 2 = ctrl ∧ p >>> 3 = 0
    | .byteDecoded first last value frameRef =>
      type = 2 ∧ start = first ∧ stop = last ∧ p.extractLsb' 0 8 = value ∧ p.extractLsb' 8 64 = frameRef ∧ p >>> 72 = 0
    | .frameStart idx => type = 3 ∧ start = idx ∧ stop = idx ∧ p = 0
    | .frameEnd first last status resCount resBits byteCount bodyCount sfdSeen =>
      type = 4 ∧ start = first ∧ stop = last ∧
      p.extractLsb' 0 3 = status.code ∧ p.extractLsb' 3 2 = resCount ∧ p.extractLsb' 5 6 = resBits ∧
      p.extractLsb' 11 32 = byteCount ∧ p.extractLsb' 43 32 = bodyCount ∧ p.getLsbD 75 = sfdSeen ∧ p >>> 76 = 0
    | .errorMarker first last kind detail =>
      type = 5 ∧ start = first ∧ stop = last ∧
      p.extractLsb' 0 4 = kind.code ∧ p.extractLsb' 4 64 = detail ∧ p >>> 68 = 0

/-- The event words round-trip: a consumer reads back every event that may be emitted (30_encoding.md R80 to R90). -/
def Obligations.EventWordRoundTrip : Prop :=
  ∀ e : Event, e.emittable = true → Event.decodeWord e.encode = some e

/-- 30_encoding.md R90: a word with a reserved type, a reserved FrameEnd status or a reserved marker kind is no event's. -/
def Obligations.ReservedEventCodesAreNoEvents : Prop :=
  ∀ ev : EventWord,
    (6 ≤ (ev.extractLsb' 0 4 : BitVec 4) → Event.decodeWord ev = none) ∧
    ((ev.extractLsb' 0 4 : BitVec 4) = 4 →
      ((ev.extractLsb' 132 3 : BitVec 3) = 0 ∨ 5 ≤ (ev.extractLsb' 132 3 : BitVec 3)) → Event.decodeWord ev = none) ∧
    ((ev.extractLsb' 0 4 : BitVec 4) = 5 →
      ((ev.extractLsb' 132 4 : BitVec 4) = 0 ∨ 7 ≤ (ev.extractLsb' 132 4 : BitVec 4)) → Event.decodeWord ev = none)

/-- 30_encoding.md R91: the text of a command reads back as that command, for every operand value (the number form written is decimal). The details of the text are the model's own (log 14). -/
def Obligations.CommandTextReadsBack : Prop :=
  ∀ i : Instr, assembleLine (printCommand i) = some [i]

/-! ### The step -/

/-- A step runs the decoded command: the next port cycle's word and index are decoded (30_encoding.md R71, R72) and the command runs with that cycle taken from the host's and its configuration in force. That the host's cycles stand in `input` and when a configuration comes into force are the model's own (logs 1 and 3). -/
def Obligations.StepRunsThePresentedCommand : Prop :=
  ∀ (s : State) (c : PortCycle) (rest : List PortCycle) (i : Instr),
    s.input = c :: rest → (c.rst = true ∨ c.cfg = s.cfg) → decode c.word c.inIdx = i →
    step s = exec i { s with input := rest, cfg := c.cfg }

/-- The model's own choice (log 1): a host that presents nothing more drives an idle port, which is a NOP cycle. -/
def Obligations.IdlePortIsANop : Prop :=
  ∀ s : State, s.input = [] → step s = .next { s with out := [] }

/-- 10_state.md R34, 60_exceptions.md R226 H3: a configuration input that changes while `rst = 0` is refused, whatever the command; this is the only case of that refusal. What counts as a change is the model's reading (log 3). -/
def Obligations.ConfigurationChangeRefused : Prop :=
  ∀ s : State, step s = .refused .configurationChanged ↔
    ∃ c rest, s.input = c :: rest ∧ c.rst = false ∧ c.cfg ≠ s.cfg

/-- Presenting a list of commands on the port, one a cycle, gives the run of those commands: the same registers, the same events in the same order (20_memory.md R57, 70_reset_and_hazards.md R259). The list of coming cycles is the model's own (logs 1 and 15). -/
def Obligations.PortCyclesRunTheCommands : Prop :=
  ∀ (s : State) (p : List Instr),
    runCycles p.length (s.withCommands p) =
      mapNext (fun r => ({ r.1 with input := [] }, r.2)) (runCommands s p)

/-! ### Invariants -/

/-- The invariant that every step keeps (10_state.md R33 I1 to I6 with the model's strengthening), from every state that meets it. -/
def Obligations.StepKeepsFrameInvariant : Prop :=
  ∀ s t : State, FrameInv s → step s = .next t → FrameInv t

/-- The reset state meets the invariant, under every configuration. -/
def Obligations.ResetMeetsFrameInvariant : Prop :=
  ∀ cfg : Config, FrameInv { State.reset with cfg := cfg }

/-- 10_state.md R33: I1 to I7 hold after every run that is not refused; the number of dibits consumed by the open frame is counted off the commands alone. -/
def Obligations.RunInvariantsOneToSeven : Prop :=
  ∀ (cfg : Config) (p : List Instr) (t : State) (evs : List Event),
    runCommands { State.reset with cfg := cfg } p = .next (t, evs) →
    Inv t ∧
    (t.byteCount < 0xFFFFFFFF → openFrameDibits none 0 p = 4 * t.byteCount.toNat + t.accCount.toNat)

/-- 10_state.md R32: `frame_open` after a run is the control bit of the last clock edge of its stream (0 before the first): the carrier that the commands show. -/
def Obligations.FrameOpenIsCarrierOfLastEdge : Prop :=
  ∀ (cfg : Config) (p : List Instr) (t : State) (evs : List Event),
    runCommands { State.reset with cfg := cfg } p = .next (t, evs) →
    (t.frameOpen = true ↔ openFrameDibits none 0 p ≠ 0) ∧
    ∀ (ctrl : Bool) (dibit : Dibit) (idx : Index) (u : State),
      t.havePrev = true → t.prevClk = false → exec (.sample true ctrl dibit idx) t = .next u →
      u.carrierPrev = ctrl

/-! ### Runs -/

/-- 40_edge_detector.md R104: the number of ClockEdge events of a run is the number of 0→1 transitions of REF_CLK between samples of one stream, from every state. -/
def Obligations.ClockEdgesCountTransitions : Prop :=
  ∀ (s : State) (p : List Instr) (t : State) (evs : List Event),
    runCommands s p = .next (t, evs) →
    evs.countP Event.isClockEdge = clockTransitions s.lastClk p

/-- 42_frame_assembler.md R143: at most one frame is open: in a run without RESET, FrameStart and FrameEnd alternate, bytes stand inside frames, and the events show a frame open at the end exactly when the state does. -/
def Obligations.FramesNeverNest : Prop :=
  ∀ (s : State) (p : List Instr) (t : State) (evs : List Event),
    s.faState ≠ .closing → noReset p = true → runCommands s p = .next (t, evs) →
    frameOpenAfter s.frameOpen evs = some t.frameOpen

/-- 20_memory.md R61: the events of every frame agree: every byte carries its frame's start index, and the FrameEnd carries it too and the saturated number of the frame's ByteDecoded events, 0 for a false carrier. -/
def Obligations.FrameEventsAgree : Prop :=
  ∀ (s : State) (p : List Instr) (t : State) (evs : List Event),
    s.faState = .idle → noReset p = true → runCommands s p = .next (t, evs) →
    ∃ f, framesAgree none evs = some f ∧
      (f = none ↔ t.frameOpen = false) ∧
      (∀ g, f = some g → g.start = t.frameStartIdx ∧ t.byteCount.toNat = min g.bytes (2 ^ 32 - 1))

/-- 43_error_classifier.md R187, 44_stream_control.md R204: a run from an idle assembler is finished exactly when it ends with EOS and no RESET comes while a frame is open (read off the commands before that RESET); then every frame created has its FrameEnd, none is open, and the registers are at reset. -/
def Obligations.FinishedRunClosesEveryFrame : Prop :=
  ∀ (s : State) (p : List Instr) (t : State) (evs : List Event),
    s.faState = .idle → runCommands s p = .next (t, evs) →
    (finishedRun s p = true ↔
      endsWithEos p = true ∧ ∀ before after, p = before ++ .reset :: after → openFrameDibits s.lastClk 0 before = 0) ∧
    (finishedRun s p = true →
      evs.countP Event.isFrameStart = evs.countP Event.isFrameEnd ∧ frameOpenAfter false evs = some false ∧ AtReset t)

/-- 43_error_classifier.md R188: the dibit count modulo 4 predicts the status of a frame closed by deassertion that completed a byte and whose count has not saturated; a frame with no completed byte is a FalseCarrier, and one ended by EOS is Truncated, whatever its count. -/
def Obligations.DibitCountPredictsStatus : Prop :=
  ∀ (cfg : Config) (p : List Instr) (t : State) (evs : List Event) (dibit : Dibit) (idx : Index),
    runCommands { State.reset with cfg := cfg } p = .next (t, evs) →
    t.frameOpen = true → t.byteCount < 0xFFFFFFFF →
    t.prevClk = false → t.lastIdx < idx →
    let n := openFrameDibits none 0 p
    (∃ u status resCount, exec (.sample true false dibit idx) t = .next u ∧
      .frameEnd t.frameStartIdx idx status resCount t.accBits t.byteCount t.bodyCount t.sfdSeen ∈ u.out ∧
      resCount.toNat = n % 4 ∧
      status = (if n < 4 then .falseCarrier else if n % 4 = 0 then .completeAligned else .completeUnaligned)) ∧
    (∃ u resCount, exec .eos t = .next u ∧
      .frameEnd t.frameStartIdx t.lastIdx .truncated resCount t.accBits t.byteCount t.bodyCount t.sfdSeen ∈ u.out ∧
      resCount.toNat = n % 4)

/-- 60_exceptions.md R220, R225, 42_frame_assembler.md R144: the core never stops: a run completes exactly when the host keeps the indices of each stream increasing, and the one stop is that refusal. -/
def Obligations.RunCompletesExactlyWhenIndicesIncrease : Prop :=
  ∀ (s : State) (p : List Instr), s.faState ≠ .closing →
    (indicesIncrease s.lastIndex p = true → ∃ t evs, runCommands s p = .next (t, evs)) ∧
    (indicesIncrease s.lastIndex p = false → runCommands s p = .refused .nonIncreasingIndex)

/-- 70_reset_and_hazards.md R258: no lookahead. A command's outcome depends neither on the events already emitted nor on the cycles the host has yet to drive; and the events and registers of the first cycles are the same whatever the host drives after them. (Where the events and the coming cycles stand in State: logs 4 and 1.) -/
def Obligations.NoLookahead : Prop :=
  (∀ (i : Instr) (s : State) (o : List Event) (q : List PortCycle),
    exec i { s with out := o, input := q } = mapNext (fun t => { t with input := q }) (exec i s)) ∧
  ∀ (s : State) (first later : List PortCycle),
    runCycles first.length { s with input := first ++ later } =
      mapNext (fun r => ({ r.1 with input := later }, r.2)) (runCycles first.length { s with input := first })

/-- 10_state.md R35: the reset values of the five guarded registers cannot be observed: with any values there, every run gives the same events and the same stop. -/
def Obligations.GuardedResetValuesUnobservable : Prop :=
  ∀ (cfg : Config) (prevClk : Bool) (lastIdx lastEdgeIdx accFirstIdx frameStartIdx : Index) (p : List Instr),
    eventsOf (runCommands
      { State.reset with
        cfg := cfg, prevClk := prevClk, lastIdx := lastIdx, lastEdgeIdx := lastEdgeIdx
        accFirstIdx := accFirstIdx, frameStartIdx := frameStartIdx } p) =
    eventsOf (runCommands { State.reset with cfg := cfg } p)

/-- 10_state.md R37: within one stream the events since reset determine the edge and frame registers: two runs with the same events leave them the same. (`have_prev`, `prev_clk` and `last_idx` also depend on samples that are no edge, which emit nothing: log 16.) -/
def Obligations.EventsDetermineFrameRegisters : Prop :=
  ∀ (cfg : Config) (p q : List Instr) (t u : State) (evs : List Event),
    withinStream p = true → withinStream q = true →
    runCommands { State.reset with cfg := cfg } p = .next (t, evs) →
    runCommands { State.reset with cfg := cfg } q = .next (u, evs) →
    t.haveEdge = u.haveEdge ∧ t.lastEdgeIdx = u.lastEdgeIdx ∧ t.faState = u.faState ∧
    t.accCount = u.accCount ∧ t.accBits = u.accBits ∧ t.accFirstIdx = u.accFirstIdx ∧
    t.frameStartIdx = u.frameStartIdx ∧ t.byteCount = u.byteCount ∧ t.bodyCount = u.bodyCount

/-- 20_memory.md R52, R54: four consecutive consumed dibits from a byte boundary make one byte, the first in bits 1:0, ranging from the first's index to the fourth's; the samples between the edges take no part. -/
def Obligations.FourDibitsMakeOneByte : Prop :=
  ∀ (s : State) (q0 q1 q2 q3 x1 x2 x3 : Dibit) (c1 c2 c3 : Bool) (i0 j1 i1 j2 i2 j3 i3 : Index),
    (s.faState = .preamble ∨ s.faState = .inFrame) → s.accCount = 0 → s.accBits = 0 →
    s.havePrev = true → s.prevClk = false →
    s.lastIdx < i0 → i0 < j1 → j1 < i1 → i1 < j2 → j2 < i2 → i2 < j3 → j3 < i3 →
    ∃ t evs,
      runCommands s
        [.sample true true q0 i0, .sample false c1 x1 j1, .sample true true q1 i1, .sample false c2 x2 j2,
          .sample true true q2 i2, .sample false c3 x3 j3, .sample true true q3 i3] = .next (t, evs) ∧
      evs.filter Event.isByteDecoded = [.byteDecoded i0 i3 (q3 ++ q2 ++ q1 ++ q0) s.frameStartIdx] ∧
      t.accCount = 0 ∧ t.accBits = 0 ∧ t.frameStartIdx = s.frameStartIdx

/-- 40_edge_detector.md R106: while REF_CLK is stuck (no 0→1 transition between samples of one stream), whatever the other lines do, nothing is emitted before an EOS. -/
def Obligations.StuckClockYieldsNothing : Prop :=
  ∀ (s : State) (p : List Instr) (t : State) (evs : List Event),
    runCommands s p = .next (t, evs) → clockTransitions s.lastClk p = 0 → .eos ∉ p → evs = []

/-- 42_frame_assembler.md R138, R142: the fourth dibit of an edge with `ctrl = 1` completes its byte although the next edge deasserts; that edge closes the frame as CompleteAligned and consumes nothing; and the edge right after it may start a new frame. -/
def Obligations.DibitConsumedBeforeDeassertion : Prop :=
  ∀ (s : State) (q y z x1 x2 : Dibit) (c1 c2 : Bool) (i0 j1 i1 j2 i2 : Index),
    (s.faState = .preamble ∨ s.faState = .inFrame) → s.accCount = 3 →
    s.havePrev = true → s.prevClk = false →
    s.lastIdx < i0 → i0 < j1 → j1 < i1 → i1 < j2 → j2 < i2 →
    ∃ t evs,
      runCommands s
        [.sample true true q i0, .sample false c1 x1 j1, .sample true false y i1, .sample false c2 x2 j2,
          .sample true true z i2] = .next (t, evs) ∧
      evs.filter (fun e => e.isByteDecoded || e.isFrameStart || e.isFrameEnd) =
        [.byteDecoded s.accFirstIdx i0 (q ++ s.accBits) s.frameStartIdx,
          .frameEnd s.frameStartIdx i1 .completeAligned 0 0
            (if s.byteCount = 0xFFFFFFFF then 0xFFFFFFFF else s.byteCount + 1)
            (if s.faState = .preamble then s.bodyCount
              else if s.bodyCount = 0xFFFFFFFF then 0xFFFFFFFF else s.bodyCount + 1)
            (decide (s.faState = .inFrame ∨ q ++ s.accBits = 0xD5#8)),
          .frameStart i2] ∧
      t.faState = .preamble ∧ t.accCount = 1 ∧ t.frameStartIdx = i2

/-- 30_encoding.md R92: `TXB` sends its byte: from an idle assembler it starts a frame at its first edge and the one ByteDecoded is that byte, at the indices R92 gives; from a byte boundary of an open frame it adds that byte. -/
def Obligations.TxbSendsItsByte : Prop :=
  ∀ (s : State) (n : Nat) (value : Byte),
    FrameInv s → s.accCount = 0 → 2 * (n + 3) + 1 < 2 ^ 64 → (s.havePrev = true → s.lastIdx.toNat < 2 * n) →
    ∃ t evs, runCommands s (txb n true value) = .next (t, evs) ∧
      evs.filter Event.isByteDecoded =
        [.byteDecoded (BitVec.ofNat 64 (2 * n + 1)) (BitVec.ofNat 64 (2 * n + 7)) value
          (if s.frameOpen then s.frameStartIdx else BitVec.ofNat 64 (2 * n + 1))] ∧
      evs.filter Event.isFrameStart =
        (if s.frameOpen then [] else [.frameStart (BitVec.ofNat 64 (2 * n + 1))]) ∧
      t.accCount = 0 ∧ t.frameOpen = true
end

