-- ==== Sys2Proof/Laws/State.lean ====
section
/-! SUPPORT. One lemma per field per named update (Machine/Ops.lean), true by rfl. -/

namespace Sys2Proof.Machine

variable (s : State)

/-! `beginCommand` -/
@[simp] theorem State.beginCommand_havePrev : (s.beginCommand).havePrev = s.havePrev := rfl
@[simp] theorem State.beginCommand_prevClk : (s.beginCommand).prevClk = s.prevClk := rfl
@[simp] theorem State.beginCommand_lastIdx : (s.beginCommand).lastIdx = s.lastIdx := rfl
@[simp] theorem State.beginCommand_haveEdge : (s.beginCommand).haveEdge = s.haveEdge := rfl
@[simp] theorem State.beginCommand_lastEdgeIdx : (s.beginCommand).lastEdgeIdx = s.lastEdgeIdx := rfl
@[simp] theorem State.beginCommand_faState : (s.beginCommand).faState = s.faState := rfl
@[simp] theorem State.beginCommand_accCount : (s.beginCommand).accCount = s.accCount := rfl
@[simp] theorem State.beginCommand_accBits : (s.beginCommand).accBits = s.accBits := rfl
@[simp] theorem State.beginCommand_accFirstIdx : (s.beginCommand).accFirstIdx = s.accFirstIdx := rfl
@[simp] theorem State.beginCommand_frameStartIdx : (s.beginCommand).frameStartIdx = s.frameStartIdx := rfl
@[simp] theorem State.beginCommand_byteCount : (s.beginCommand).byteCount = s.byteCount := rfl
@[simp] theorem State.beginCommand_bodyCount : (s.beginCommand).bodyCount = s.bodyCount := rfl
@[simp] theorem State.beginCommand_out : (s.beginCommand).out = [] := rfl
@[simp] theorem State.beginCommand_cfg : (s.beginCommand).cfg = s.cfg := rfl
@[simp] theorem State.beginCommand_input : (s.beginCommand).input = s.input := rfl

/-! `emit` -/
@[simp] theorem State.emit_havePrev (e : Event) : (s.emit e).havePrev = s.havePrev := rfl
@[simp] theorem State.emit_prevClk (e : Event) : (s.emit e).prevClk = s.prevClk := rfl
@[simp] theorem State.emit_lastIdx (e : Event) : (s.emit e).lastIdx = s.lastIdx := rfl
@[simp] theorem State.emit_haveEdge (e : Event) : (s.emit e).haveEdge = s.haveEdge := rfl
@[simp] theorem State.emit_lastEdgeIdx (e : Event) : (s.emit e).lastEdgeIdx = s.lastEdgeIdx := rfl
@[simp] theorem State.emit_faState (e : Event) : (s.emit e).faState = s.faState := rfl
@[simp] theorem State.emit_accCount (e : Event) : (s.emit e).accCount = s.accCount := rfl
@[simp] theorem State.emit_accBits (e : Event) : (s.emit e).accBits = s.accBits := rfl
@[simp] theorem State.emit_accFirstIdx (e : Event) : (s.emit e).accFirstIdx = s.accFirstIdx := rfl
@[simp] theorem State.emit_frameStartIdx (e : Event) : (s.emit e).frameStartIdx = s.frameStartIdx := rfl
@[simp] theorem State.emit_byteCount (e : Event) : (s.emit e).byteCount = s.byteCount := rfl
@[simp] theorem State.emit_bodyCount (e : Event) : (s.emit e).bodyCount = s.bodyCount := rfl
@[simp] theorem State.emit_out (e : Event) : (s.emit e).out = s.out ++ [e] := rfl
@[simp] theorem State.emit_cfg (e : Event) : (s.emit e).cfg = s.cfg := rfl
@[simp] theorem State.emit_input (e : Event) : (s.emit e).input = s.input := rfl

/-! `recordSample` -/
@[simp] theorem State.recordSample_havePrev (clk : Bool) (idx : Index) : (s.recordSample clk idx).havePrev = true := rfl
@[simp] theorem State.recordSample_prevClk (clk : Bool) (idx : Index) : (s.recordSample clk idx).prevClk = clk := rfl
@[simp] theorem State.recordSample_lastIdx (clk : Bool) (idx : Index) : (s.recordSample clk idx).lastIdx = idx := rfl
@[simp] theorem State.recordSample_haveEdge (clk : Bool) (idx : Index) : (s.recordSample clk idx).haveEdge = s.haveEdge := rfl
@[simp] theorem State.recordSample_lastEdgeIdx (clk : Bool) (idx : Index) : (s.recordSample clk idx).lastEdgeIdx = s.lastEdgeIdx := rfl
@[simp] theorem State.recordSample_faState (clk : Bool) (idx : Index) : (s.recordSample clk idx).faState = s.faState := rfl
@[simp] theorem State.recordSample_accCount (clk : Bool) (idx : Index) : (s.recordSample clk idx).accCount = s.accCount := rfl
@[simp] theorem State.recordSample_accBits (clk : Bool) (idx : Index) : (s.recordSample clk idx).accBits = s.accBits := rfl
@[simp] theorem State.recordSample_accFirstIdx (clk : Bool) (idx : Index) : (s.recordSample clk idx).accFirstIdx = s.accFirstIdx := rfl
@[simp] theorem State.recordSample_frameStartIdx (clk : Bool) (idx : Index) : (s.recordSample clk idx).frameStartIdx = s.frameStartIdx := rfl
@[simp] theorem State.recordSample_byteCount (clk : Bool) (idx : Index) : (s.recordSample clk idx).byteCount = s.byteCount := rfl
@[simp] theorem State.recordSample_bodyCount (clk : Bool) (idx : Index) : (s.recordSample clk idx).bodyCount = s.bodyCount := rfl
@[simp] theorem State.recordSample_out (clk : Bool) (idx : Index) : (s.recordSample clk idx).out = s.out := rfl
@[simp] theorem State.recordSample_cfg (clk : Bool) (idx : Index) : (s.recordSample clk idx).cfg = s.cfg := rfl
@[simp] theorem State.recordSample_input (clk : Bool) (idx : Index) : (s.recordSample clk idx).input = s.input := rfl

/-! `recordEdge` -/
@[simp] theorem State.recordEdge_havePrev (idx : Index) : (s.recordEdge idx).havePrev = s.havePrev := rfl
@[simp] theorem State.recordEdge_prevClk (idx : Index) : (s.recordEdge idx).prevClk = s.prevClk := rfl
@[simp] theorem State.recordEdge_lastIdx (idx : Index) : (s.recordEdge idx).lastIdx = s.lastIdx := rfl
@[simp] theorem State.recordEdge_haveEdge (idx : Index) : (s.recordEdge idx).haveEdge = true := rfl
@[simp] theorem State.recordEdge_lastEdgeIdx (idx : Index) : (s.recordEdge idx).lastEdgeIdx = idx := rfl
@[simp] theorem State.recordEdge_faState (idx : Index) : (s.recordEdge idx).faState = s.faState := rfl
@[simp] theorem State.recordEdge_accCount (idx : Index) : (s.recordEdge idx).accCount = s.accCount := rfl
@[simp] theorem State.recordEdge_accBits (idx : Index) : (s.recordEdge idx).accBits = s.accBits := rfl
@[simp] theorem State.recordEdge_accFirstIdx (idx : Index) : (s.recordEdge idx).accFirstIdx = s.accFirstIdx := rfl
@[simp] theorem State.recordEdge_frameStartIdx (idx : Index) : (s.recordEdge idx).frameStartIdx = s.frameStartIdx := rfl
@[simp] theorem State.recordEdge_byteCount (idx : Index) : (s.recordEdge idx).byteCount = s.byteCount := rfl
@[simp] theorem State.recordEdge_bodyCount (idx : Index) : (s.recordEdge idx).bodyCount = s.bodyCount := rfl
@[simp] theorem State.recordEdge_out (idx : Index) : (s.recordEdge idx).out = s.out := rfl
@[simp] theorem State.recordEdge_cfg (idx : Index) : (s.recordEdge idx).cfg = s.cfg := rfl
@[simp] theorem State.recordEdge_input (idx : Index) : (s.recordEdge idx).input = s.input := rfl

/-! `clearAcc` -/
@[simp] theorem State.clearAcc_havePrev : (s.clearAcc).havePrev = s.havePrev := rfl
@[simp] theorem State.clearAcc_prevClk : (s.clearAcc).prevClk = s.prevClk := rfl
@[simp] theorem State.clearAcc_lastIdx : (s.clearAcc).lastIdx = s.lastIdx := rfl
@[simp] theorem State.clearAcc_haveEdge : (s.clearAcc).haveEdge = s.haveEdge := rfl
@[simp] theorem State.clearAcc_lastEdgeIdx : (s.clearAcc).lastEdgeIdx = s.lastEdgeIdx := rfl
@[simp] theorem State.clearAcc_faState : (s.clearAcc).faState = s.faState := rfl
@[simp] theorem State.clearAcc_accCount : (s.clearAcc).accCount = 0 := rfl
@[simp] theorem State.clearAcc_accBits : (s.clearAcc).accBits = 0 := rfl
@[simp] theorem State.clearAcc_accFirstIdx : (s.clearAcc).accFirstIdx = 0 := rfl
@[simp] theorem State.clearAcc_frameStartIdx : (s.clearAcc).frameStartIdx = s.frameStartIdx := rfl
@[simp] theorem State.clearAcc_byteCount : (s.clearAcc).byteCount = s.byteCount := rfl
@[simp] theorem State.clearAcc_bodyCount : (s.clearAcc).bodyCount = s.bodyCount := rfl
@[simp] theorem State.clearAcc_out : (s.clearAcc).out = s.out := rfl
@[simp] theorem State.clearAcc_cfg : (s.clearAcc).cfg = s.cfg := rfl
@[simp] theorem State.clearAcc_input : (s.clearAcc).input = s.input := rfl

/-! `openFrame` -/
@[simp] theorem State.openFrame_havePrev (idx : Index) : (s.openFrame idx).havePrev = s.havePrev := rfl
@[simp] theorem State.openFrame_prevClk (idx : Index) : (s.openFrame idx).prevClk = s.prevClk := rfl
@[simp] theorem State.openFrame_lastIdx (idx : Index) : (s.openFrame idx).lastIdx = s.lastIdx := rfl
@[simp] theorem State.openFrame_haveEdge (idx : Index) : (s.openFrame idx).haveEdge = s.haveEdge := rfl
@[simp] theorem State.openFrame_lastEdgeIdx (idx : Index) : (s.openFrame idx).lastEdgeIdx = s.lastEdgeIdx := rfl
@[simp] theorem State.openFrame_faState (idx : Index) : (s.openFrame idx).faState = .preamble := rfl
@[simp] theorem State.openFrame_accCount (idx : Index) : (s.openFrame idx).accCount = 0 := rfl
@[simp] theorem State.openFrame_accBits (idx : Index) : (s.openFrame idx).accBits = 0 := rfl
@[simp] theorem State.openFrame_accFirstIdx (idx : Index) : (s.openFrame idx).accFirstIdx = 0 := rfl
@[simp] theorem State.openFrame_frameStartIdx (idx : Index) : (s.openFrame idx).frameStartIdx = idx := rfl
@[simp] theorem State.openFrame_byteCount (idx : Index) : (s.openFrame idx).byteCount = 0 := rfl
@[simp] theorem State.openFrame_bodyCount (idx : Index) : (s.openFrame idx).bodyCount = 0 := rfl
@[simp] theorem State.openFrame_out (idx : Index) : (s.openFrame idx).out = s.out := rfl
@[simp] theorem State.openFrame_cfg (idx : Index) : (s.openFrame idx).cfg = s.cfg := rfl
@[simp] theorem State.openFrame_input (idx : Index) : (s.openFrame idx).input = s.input := rfl

/-! `pushDibit` -/
@[simp] theorem State.pushDibit_havePrev (idx : Index) (dibit : Dibit) : (s.pushDibit idx dibit).havePrev = s.havePrev := rfl
@[simp] theorem State.pushDibit_prevClk (idx : Index) (dibit : Dibit) : (s.pushDibit idx dibit).prevClk = s.prevClk := rfl
@[simp] theorem State.pushDibit_lastIdx (idx : Index) (dibit : Dibit) : (s.pushDibit idx dibit).lastIdx = s.lastIdx := rfl
@[simp] theorem State.pushDibit_haveEdge (idx : Index) (dibit : Dibit) : (s.pushDibit idx dibit).haveEdge = s.haveEdge := rfl
@[simp] theorem State.pushDibit_lastEdgeIdx (idx : Index) (dibit : Dibit) : (s.pushDibit idx dibit).lastEdgeIdx = s.lastEdgeIdx := rfl
@[simp] theorem State.pushDibit_faState (idx : Index) (dibit : Dibit) : (s.pushDibit idx dibit).faState = s.faState := rfl
@[simp] theorem State.pushDibit_accCount (idx : Index) (dibit : Dibit) : (s.pushDibit idx dibit).accCount = s.accCount + 1 := rfl
@[simp] theorem State.pushDibit_accBits (idx : Index) (dibit : Dibit) : (s.pushDibit idx dibit).accBits = setDibit s.accBits s.accCount dibit := rfl
@[simp] theorem State.pushDibit_accFirstIdx (idx : Index) (dibit : Dibit) : (s.pushDibit idx dibit).accFirstIdx = if s.accCount = 0 then idx else s.accFirstIdx := rfl
@[simp] theorem State.pushDibit_frameStartIdx (idx : Index) (dibit : Dibit) : (s.pushDibit idx dibit).frameStartIdx = s.frameStartIdx := rfl
@[simp] theorem State.pushDibit_byteCount (idx : Index) (dibit : Dibit) : (s.pushDibit idx dibit).byteCount = s.byteCount := rfl
@[simp] theorem State.pushDibit_bodyCount (idx : Index) (dibit : Dibit) : (s.pushDibit idx dibit).bodyCount = s.bodyCount := rfl
@[simp] theorem State.pushDibit_out (idx : Index) (dibit : Dibit) : (s.pushDibit idx dibit).out = s.out := rfl
@[simp] theorem State.pushDibit_cfg (idx : Index) (dibit : Dibit) : (s.pushDibit idx dibit).cfg = s.cfg := rfl
@[simp] theorem State.pushDibit_input (idx : Index) (dibit : Dibit) : (s.pushDibit idx dibit).input = s.input := rfl

/-! `enter` -/
@[simp] theorem State.enter_havePrev (f : FaState) : (s.enter f).havePrev = s.havePrev := rfl
@[simp] theorem State.enter_prevClk (f : FaState) : (s.enter f).prevClk = s.prevClk := rfl
@[simp] theorem State.enter_lastIdx (f : FaState) : (s.enter f).lastIdx = s.lastIdx := rfl
@[simp] theorem State.enter_haveEdge (f : FaState) : (s.enter f).haveEdge = s.haveEdge := rfl
@[simp] theorem State.enter_lastEdgeIdx (f : FaState) : (s.enter f).lastEdgeIdx = s.lastEdgeIdx := rfl
@[simp] theorem State.enter_faState (f : FaState) : (s.enter f).faState = f := rfl
@[simp] theorem State.enter_accCount (f : FaState) : (s.enter f).accCount = s.accCount := rfl
@[simp] theorem State.enter_accBits (f : FaState) : (s.enter f).accBits = s.accBits := rfl
@[simp] theorem State.enter_accFirstIdx (f : FaState) : (s.enter f).accFirstIdx = s.accFirstIdx := rfl
@[simp] theorem State.enter_frameStartIdx (f : FaState) : (s.enter f).frameStartIdx = s.frameStartIdx := rfl
@[simp] theorem State.enter_byteCount (f : FaState) : (s.enter f).byteCount = s.byteCount := rfl
@[simp] theorem State.enter_bodyCount (f : FaState) : (s.enter f).bodyCount = s.bodyCount := rfl
@[simp] theorem State.enter_out (f : FaState) : (s.enter f).out = s.out := rfl
@[simp] theorem State.enter_cfg (f : FaState) : (s.enter f).cfg = s.cfg := rfl
@[simp] theorem State.enter_input (f : FaState) : (s.enter f).input = s.input := rfl

/-! `countByte` -/
@[simp] theorem State.countByte_havePrev : (s.countByte).havePrev = s.havePrev := rfl
@[simp] theorem State.countByte_prevClk : (s.countByte).prevClk = s.prevClk := rfl
@[simp] theorem State.countByte_lastIdx : (s.countByte).lastIdx = s.lastIdx := rfl
@[simp] theorem State.countByte_haveEdge : (s.countByte).haveEdge = s.haveEdge := rfl
@[simp] theorem State.countByte_lastEdgeIdx : (s.countByte).lastEdgeIdx = s.lastEdgeIdx := rfl
@[simp] theorem State.countByte_faState : (s.countByte).faState = s.faState := rfl
@[simp] theorem State.countByte_accCount : (s.countByte).accCount = s.accCount := rfl
@[simp] theorem State.countByte_accBits : (s.countByte).accBits = s.accBits := rfl
@[simp] theorem State.countByte_accFirstIdx : (s.countByte).accFirstIdx = s.accFirstIdx := rfl
@[simp] theorem State.countByte_frameStartIdx : (s.countByte).frameStartIdx = s.frameStartIdx := rfl
@[simp] theorem State.countByte_byteCount : (s.countByte).byteCount = satInc s.byteCount := rfl
@[simp] theorem State.countByte_bodyCount : (s.countByte).bodyCount = s.bodyCount := rfl
@[simp] theorem State.countByte_out : (s.countByte).out = s.out := rfl
@[simp] theorem State.countByte_cfg : (s.countByte).cfg = s.cfg := rfl
@[simp] theorem State.countByte_input : (s.countByte).input = s.input := rfl

/-! `countBody` -/
@[simp] theorem State.countBody_havePrev : (s.countBody).havePrev = s.havePrev := rfl
@[simp] theorem State.countBody_prevClk : (s.countBody).prevClk = s.prevClk := rfl
@[simp] theorem State.countBody_lastIdx : (s.countBody).lastIdx = s.lastIdx := rfl
@[simp] theorem State.countBody_haveEdge : (s.countBody).haveEdge = s.haveEdge := rfl
@[simp] theorem State.countBody_lastEdgeIdx : (s.countBody).lastEdgeIdx = s.lastEdgeIdx := rfl
@[simp] theorem State.countBody_faState : (s.countBody).faState = s.faState := rfl
@[simp] theorem State.countBody_accCount : (s.countBody).accCount = s.accCount := rfl
@[simp] theorem State.countBody_accBits : (s.countBody).accBits = s.accBits := rfl
@[simp] theorem State.countBody_accFirstIdx : (s.countBody).accFirstIdx = s.accFirstIdx := rfl
@[simp] theorem State.countBody_frameStartIdx : (s.countBody).frameStartIdx = s.frameStartIdx := rfl
@[simp] theorem State.countBody_byteCount : (s.countBody).byteCount = s.byteCount := rfl
@[simp] theorem State.countBody_bodyCount : (s.countBody).bodyCount = satInc s.bodyCount := rfl
@[simp] theorem State.countBody_out : (s.countBody).out = s.out := rfl
@[simp] theorem State.countBody_cfg : (s.countBody).cfg = s.cfg := rfl
@[simp] theorem State.countBody_input : (s.countBody).input = s.input := rfl

/-! `clearFrame` -/
@[simp] theorem State.clearFrame_havePrev : (s.clearFrame).havePrev = s.havePrev := rfl
@[simp] theorem State.clearFrame_prevClk : (s.clearFrame).prevClk = s.prevClk := rfl
@[simp] theorem State.clearFrame_lastIdx : (s.clearFrame).lastIdx = s.lastIdx := rfl
@[simp] theorem State.clearFrame_haveEdge : (s.clearFrame).haveEdge = s.haveEdge := rfl
@[simp] theorem State.clearFrame_lastEdgeIdx : (s.clearFrame).lastEdgeIdx = s.lastEdgeIdx := rfl
@[simp] theorem State.clearFrame_faState : (s.clearFrame).faState = .idle := rfl
@[simp] theorem State.clearFrame_accCount : (s.clearFrame).accCount = 0 := rfl
@[simp] theorem State.clearFrame_accBits : (s.clearFrame).accBits = 0 := rfl
@[simp] theorem State.clearFrame_accFirstIdx : (s.clearFrame).accFirstIdx = 0 := rfl
@[simp] theorem State.clearFrame_frameStartIdx : (s.clearFrame).frameStartIdx = 0 := rfl
@[simp] theorem State.clearFrame_byteCount : (s.clearFrame).byteCount = 0 := rfl
@[simp] theorem State.clearFrame_bodyCount : (s.clearFrame).bodyCount = 0 := rfl
@[simp] theorem State.clearFrame_out : (s.clearFrame).out = s.out := rfl
@[simp] theorem State.clearFrame_cfg : (s.clearFrame).cfg = s.cfg := rfl
@[simp] theorem State.clearFrame_input : (s.clearFrame).input = s.input := rfl

/-! `reinit` -/
@[simp] theorem State.reinit_havePrev : (s.reinit).havePrev = false := rfl
@[simp] theorem State.reinit_prevClk : (s.reinit).prevClk = false := rfl
@[simp] theorem State.reinit_lastIdx : (s.reinit).lastIdx = 0 := rfl
@[simp] theorem State.reinit_haveEdge : (s.reinit).haveEdge = false := rfl
@[simp] theorem State.reinit_lastEdgeIdx : (s.reinit).lastEdgeIdx = 0 := rfl
@[simp] theorem State.reinit_faState : (s.reinit).faState = .idle := rfl
@[simp] theorem State.reinit_accCount : (s.reinit).accCount = 0 := rfl
@[simp] theorem State.reinit_accBits : (s.reinit).accBits = 0 := rfl
@[simp] theorem State.reinit_accFirstIdx : (s.reinit).accFirstIdx = 0 := rfl
@[simp] theorem State.reinit_frameStartIdx : (s.reinit).frameStartIdx = 0 := rfl
@[simp] theorem State.reinit_byteCount : (s.reinit).byteCount = 0 := rfl
@[simp] theorem State.reinit_bodyCount : (s.reinit).bodyCount = 0 := rfl
@[simp] theorem State.reinit_out : (s.reinit).out = s.out := rfl
@[simp] theorem State.reinit_cfg : (s.reinit).cfg = s.cfg := rfl
@[simp] theorem State.reinit_input : (s.reinit).input = s.input := rfl

/-! `emitIf`: no register changes; the list grows by the event when the condition holds. -/
@[simp] theorem State.emitIf_havePrev (c : Bool) (e : Event) : (s.emitIf c e).havePrev = s.havePrev := by cases c <;> rfl
@[simp] theorem State.emitIf_prevClk (c : Bool) (e : Event) : (s.emitIf c e).prevClk = s.prevClk := by cases c <;> rfl
@[simp] theorem State.emitIf_lastIdx (c : Bool) (e : Event) : (s.emitIf c e).lastIdx = s.lastIdx := by cases c <;> rfl
@[simp] theorem State.emitIf_haveEdge (c : Bool) (e : Event) : (s.emitIf c e).haveEdge = s.haveEdge := by cases c <;> rfl
@[simp] theorem State.emitIf_lastEdgeIdx (c : Bool) (e : Event) : (s.emitIf c e).lastEdgeIdx = s.lastEdgeIdx := by cases c <;> rfl
@[simp] theorem State.emitIf_faState (c : Bool) (e : Event) : (s.emitIf c e).faState = s.faState := by cases c <;> rfl
@[simp] theorem State.emitIf_accCount (c : Bool) (e : Event) : (s.emitIf c e).accCount = s.accCount := by cases c <;> rfl
@[simp] theorem State.emitIf_accBits (c : Bool) (e : Event) : (s.emitIf c e).accBits = s.accBits := by cases c <;> rfl
@[simp] theorem State.emitIf_accFirstIdx (c : Bool) (e : Event) : (s.emitIf c e).accFirstIdx = s.accFirstIdx := by cases c <;> rfl
@[simp] theorem State.emitIf_frameStartIdx (c : Bool) (e : Event) : (s.emitIf c e).frameStartIdx = s.frameStartIdx := by cases c <;> rfl
@[simp] theorem State.emitIf_byteCount (c : Bool) (e : Event) : (s.emitIf c e).byteCount = s.byteCount := by cases c <;> rfl
@[simp] theorem State.emitIf_bodyCount (c : Bool) (e : Event) : (s.emitIf c e).bodyCount = s.bodyCount := by cases c <;> rfl
@[simp] theorem State.emitIf_out (c : Bool) (e : Event) :
    (s.emitIf c e).out = s.out ++ (if c then [e] else []) := by
  cases c <;> simp [State.emitIf]
@[simp] theorem State.emitIf_cfg (c : Bool) (e : Event) : (s.emitIf c e).cfg = s.cfg := by cases c <;> rfl
@[simp] theorem State.emitIf_input (c : Bool) (e : Event) : (s.emitIf c e).input = s.input := by cases c <;> rfl

end Sys2Proof.Machine
end

