-- ==== Sys2Proof/Laws/Stages.lean ====
section
/-! SUPPORT. What each stage does, said once: its registers and its events as an explicit state. -/

namespace Sys2Proof.Machine

/-- SymbolExtract appends one SymbolDecoded and changes nothing else. -/
theorem State.symbolExtract_eq (s : State) (idx : Index) (ctrl : Bool) (dibit : Dibit) :
    s.symbolExtract idx ctrl dibit = { s with out := s.out ++ [.symbolDecoded idx dibit ctrl] } := rfl

/-- A conditional emit as a record update. -/
theorem State.emitIf_eq (s : State) (c : Bool) (e : Event) :
    s.emitIf c e = { s with out := s.out ++ (if c then [e] else []) } := by
  cases c <;> simp [State.emitIf, State.emit]

/-- The spacing test as a proposition. -/
theorem State.implausible_iff (s : State) (delta : Index) :
    s.implausible delta = true ↔ delta < s.cfg.edgeDeltaMin ∨ s.cfg.edgeDeltaMax < delta := by
  unfold State.implausible
  rw [Bool.or_eq_true, decide_eq_true_eq, decide_eq_true_eq]

/-- `sfd_seen` as a decided proposition. -/
theorem State.sfdSeen_eq (s : State) : s.sfdSeen = decide (s.faState = .inFrame) := by
  unfold State.sfdSeen
  cases s.faState <;> decide

/-- MISSING_SFD's test as a proposition. -/
theorem State.missingSfd_iff (s : State) (sfd : Bool) :
    s.missingSfd sfd = true ↔ sfd = false ∧ s.cfg.preambleBudget < s.byteCount := by
  unfold State.missingSfd
  rw [Bool.and_eq_true, decide_eq_true_eq, Bool.not_eq_true']

/-- RUNT_FRAME's test as a proposition. -/
theorem State.runtFrame_iff (s : State) (status : FrameStatus) (sfd : Bool) :
    s.runtFrame status sfd = true ↔
      (status = .completeAligned ∨ status = .completeUnaligned) ∧ sfd = true ∧
        s.bodyCount < s.cfg.runtMinBytes := by
  unfold State.runtFrame
  rw [Bool.and_eq_true, Bool.and_eq_true, decide_eq_true_eq, Bool.or_eq_true, beq_iff_eq, beq_iff_eq, and_assoc]

/-- The edge's events over the Bool test of the spacing check. -/
theorem edgeEvents_eq (s : State) (idx : Index) (ctrl : Bool) (dibit : Dibit) :
    edgeEvents s idx ctrl dibit =
      .clockEdge idx ::
        (if (s.haveEdge && s.implausible (idx - s.lastEdgeIdx)) = true
          then [.errorMarker s.lastEdgeIdx idx .unexpectedEdgeSpacing (idx - s.lastEdgeIdx)] else []) ++
        [.symbolDecoded idx dibit ctrl] := by
  unfold edgeEvents
  simp only [Bool.and_eq_true, State.implausible_iff]

/-- The edge part before the FrameAssembler: the edge recorded, the edge's events appended. -/
theorem State.edgeStages_eq (s : State) (idx : Index) (ctrl : Bool) (dibit : Dibit) :
    s.edgeStages idx ctrl dibit =
      { s with haveEdge := true, lastEdgeIdx := idx, out := s.out ++ edgeEvents s idx ctrl dibit } := by
  have hi : (s.emit (.clockEdge idx)).implausible (idx - s.lastEdgeIdx) = s.implausible (idx - s.lastEdgeIdx) := rfl
  rw [edgeEvents_eq]
  simp only [State.edgeStages, State.edgeSpacingCheck, State.emit_haveEdge, State.emit_lastEdgeIdx, hi,
    State.emitIf_eq]
  simp [State.emit, State.recordEdge, State.symbolExtract]

/-- Start followed by its first Consume: a frame with one buffered dibit. -/
theorem State.start_consume_eq (s : State) (idx : Index) (dibit : Dibit) :
    (s.start idx).consume idx dibit =
      { s with
        faState := .preamble, frameStartIdx := idx, accCount := 1, accBits := setDibit 0 0 dibit
        accFirstIdx := idx, byteCount := 0, bodyCount := 0, out := s.out ++ [.frameStart idx] } := by
  simp [State.consume, State.start, State.pushDibit, State.openFrame, State.clearAcc, State.emit]

/-- Consume of a first to third dibit. -/
theorem State.consume_push (s : State) (idx : Index) (dibit : Dibit) (h : s.accCount ≠ 3) :
    s.consume idx dibit = s.pushDibit idx dibit := if_neg h

/-- Consume of a fourth dibit. -/
theorem State.consume_complete (s : State) (idx : Index) (dibit : Dibit) (h : s.accCount = 3) :
    s.consume idx dibit = s.completeByte idx dibit := if_pos h

/-- CompleteByte as one record update. -/
theorem State.completeByte_eq (s : State) (idx : Index) (dibit : Dibit) :
    s.completeByte idx dibit =
      { s with
        faState := if s.faState ≠ .inFrame ∧ assembleByte s.accBits dibit = sfdByte then .inFrame else s.faState
        byteCount := satInc s.byteCount
        bodyCount := if s.faState = .inFrame then satInc s.bodyCount else s.bodyCount
        accCount := 0, accBits := 0, accFirstIdx := 0
        out := s.out ++ [.byteDecoded s.accFirstIdx idx (assembleByte s.accBits dibit) s.frameStartIdx] } := by
  by_cases hf : s.faState = .inFrame <;>
    by_cases hv : assembleByte s.accBits dibit = sfdByte <;>
    simp [State.completeByte, State.noteByte, State.countByte, State.countBody, State.enter,
      State.clearAcc, State.emit, hf, hv]

/-- The markers of a close as a list. -/
def closeMarkerEvents (s : State) (status : FrameStatus) (sfd : Bool) (last : Index) : List Event :=
  (match statusMarker status with
    | some kind => [.errorMarker s.frameStartIdx last kind (zextDibits s.accCount)]
    | none => []) ++
  (if s.missingSfd sfd then [.errorMarker s.frameStartIdx last .missingSfd (zextCount s.byteCount)] else []) ++
  (if s.runtFrame status sfd then [.errorMarker s.frameStartIdx last .runtFrame (zextCount s.bodyCount)] else [])

/-- CloseMarkers appends its markers and changes nothing else. -/
theorem State.closeMarkers_eq (s : State) (status : FrameStatus) (sfd : Bool) (last : Index) :
    s.closeMarkers status sfd last = { s with out := s.out ++ closeMarkerEvents s status sfd last } := by
  cases status <;>
    simp [State.closeMarkers, State.emitStatusMarker, statusMarker, State.emitIf_eq, State.emit,
      closeMarkerEvents]

/-- The events of a close as a list. -/
def closeEvents (s : State) (last : Index) (cause : CloseCause) : List Event :=
  s.frameEndEvent (s.classifyStatus cause) last ::
    closeMarkerEvents s (s.classifyStatus cause) s.sfdSeen last

/-- Close as one record update: every frame register cleared, the close's events appended. -/
theorem State.close_eq (s : State) (last : Index) (cause : CloseCause) :
    s.close last cause =
      { s with
        faState := .idle, accCount := 0, accBits := 0, accFirstIdx := 0
        frameStartIdx := 0, byteCount := 0, bodyCount := 0
        out := s.out ++ closeEvents s last cause } := by
  simp [State.close, State.closeMarkers_eq, State.enter, State.emit, State.clearFrame, State.clearAcc,
    closeEvents, closeMarkerEvents, State.missingSfd, State.runtFrame]

/-- A close by deassertion emits what Safety.lean writes out. -/
theorem closeEvents_deassert (s : State) (last : Index) :
    closeEvents s last .deassert = deassertEvents s last := by
  unfold closeEvents closeMarkerEvents deassertEvents
  simp only [State.classifyStatus, State.frameEndEvent, State.missingSfd_iff, State.runtFrame_iff,
    State.sfdSeen_eq, zextDibits, zextCount]
  by_cases hb : s.byteCount = 0
  · simp only [statusMarker, hb, ne_eq, not_true_eq_false, false_and, if_false]
    rfl
  · by_cases ha : s.accCount = 0
    · simp only [if_pos ha, statusMarker, hb, ne_eq, not_false_eq_true, true_and, reduceCtorEq, if_false,
        or_false]
      rfl
    · simp only [if_neg ha, statusMarker, hb, ne_eq, not_false_eq_true, true_and, reduceCtorEq, if_false,
        or_true]
      rfl

/-- A close at the end of the stream emits what Safety.lean writes out. -/
theorem closeEvents_eos (s : State) : closeEvents s s.lastIdx .eos = truncatedEvents s := by
  unfold closeEvents closeMarkerEvents truncatedEvents
  simp only [State.classifyStatus, State.frameEndEvent, State.missingSfd_iff, State.runtFrame_iff,
    State.sfdSeen_eq, zextDibits, zextCount, statusMarker, reduceCtorEq, or_self, false_and, if_false,
    List.append_nil]
  rfl

/-! FrameStep's cases (R130). -/

theorem frameStep_idle_low (s : State) (idx : Index) (dibit : Dibit) (h : s.faState = .idle) :
    frameStep idx false dibit s = .next s := by simp [frameStep, h]

theorem frameStep_idle_high (s : State) (idx : Index) (dibit : Dibit) (h : s.faState = .idle) :
    frameStep idx true dibit s = .next ((s.start idx).consume idx dibit) := by simp [frameStep, h]

theorem frameStep_open_low (s : State) (idx : Index) (dibit : Dibit)
    (h : s.faState = .preamble ∨ s.faState = .inFrame) :
    frameStep idx false dibit s = .next (s.close idx .deassert) := by
  rcases h with h | h <;> simp [frameStep, h]

theorem frameStep_open_high (s : State) (idx : Index) (dibit : Dibit)
    (h : s.faState = .preamble ∨ s.faState = .inFrame) :
    frameStep idx true dibit s = .next (s.consume idx dibit) := by
  rcases h with h | h <;> simp [frameStep, h]

theorem frameStep_closing (s : State) (idx : Index) (ctrl : Bool) (dibit : Dibit) (h : s.faState = .closing) :
    frameStep idx ctrl dibit s = .fault .closingAtDispatch := by simp [frameStep, h]

/-! SAMPLE's three ways, by the two tests it makes on the registers before the command. -/

theorem execSample_refused (s : State) (clk ctrl : Bool) (dibit : Dibit) (idx : Index)
    (h : s.indexRefused idx = true) :
    execSample clk ctrl dibit idx s = .refused .nonIncreasingIndex := by simp [execSample, h]

theorem execSample_level (s : State) (clk ctrl : Bool) (dibit : Dibit) (idx : Index)
    (h : s.indexRefused idx = false) (he : s.isEdge clk = false) :
    execSample clk ctrl dibit idx s = .next (s.beginCommand.recordSample clk idx) := by
  simp [execSample, h, he]

theorem execSample_edge (s : State) (clk ctrl : Bool) (dibit : Dibit) (idx : Index)
    (h : s.indexRefused idx = false) (he : s.isEdge clk = true) :
    execSample clk ctrl dibit idx s =
      frameStep idx ctrl dibit ((s.beginCommand.recordSample clk idx).edgeStages idx ctrl dibit) := by
  simp [execSample, h, he]

/-- The state at FrameStep's dispatch. -/
def State.atDispatch (s : State) (clk ctrl : Bool) (dibit : Dibit) (idx : Index) : State :=
  { s with
    havePrev := true, prevClk := clk, lastIdx := idx, haveEdge := true, lastEdgeIdx := idx
    out := edgeEvents s idx ctrl dibit }

/-- The stages before FrameStep lead there. -/
theorem edgeStages_atDispatch (s : State) (clk ctrl : Bool) (dibit : Dibit) (idx : Index) :
    (s.beginCommand.recordSample clk idx).edgeStages idx ctrl dibit = s.atDispatch clk ctrl dibit idx := by
  rw [State.edgeStages_eq]
  rfl

/-- The test of R101 in the registers. -/
theorem State.indexRefused_iff (s : State) (idx : Index) :
    s.indexRefused idx = true ↔ s.havePrev = true ∧ idx ≤ s.lastIdx := by
  simp [State.indexRefused]

/-- The test of R102 in the registers. -/
theorem State.isEdge_iff (s : State) (clk : Bool) :
    s.isEdge clk = true ↔ s.havePrev = true ∧ s.prevClk = false ∧ clk = true := by
  simp [State.isEdge, and_assoc]

/-- Everything an accepted command can do: the seven ways to a next state. -/
inductive Effect (s : State) : Instr → State → Prop where
  | reset : Effect s .reset { State.reset with cfg := s.cfg, input := s.input }
  | nop : Effect s .nop { s with out := [] }
  | eosIdle (h : s.faState = .idle) : Effect s .eos { State.reset with cfg := s.cfg, input := s.input }
  | eosOpen (h : s.faState ≠ .idle) :
      Effect s .eos { State.reset with cfg := s.cfg, input := s.input, out := truncatedEvents s }
  | level (clk ctrl : Bool) (dibit : Dibit) (idx : Index)
      (hi : s.indexRefused idx = false) (he : s.isEdge clk = false) :
      Effect s (.sample clk ctrl dibit idx)
        { s with havePrev := true, prevClk := clk, lastIdx := idx, out := [] }
  | quiet (clk : Bool) (dibit : Dibit) (idx : Index)
      (hi : s.indexRefused idx = false) (he : s.isEdge clk = true) (hf : s.faState = .idle) :
      Effect s (.sample clk false dibit idx)
        { s with
          havePrev := true, prevClk := clk, lastIdx := idx, haveEdge := true, lastEdgeIdx := idx
          out := edgeEvents s idx false dibit }
  | opened (clk : Bool) (dibit : Dibit) (idx : Index)
      (hi : s.indexRefused idx = false) (he : s.isEdge clk = true) (hf : s.faState = .idle) :
      Effect s (.sample clk true dibit idx)
        { s with
          havePrev := true, prevClk := clk, lastIdx := idx, haveEdge := true, lastEdgeIdx := idx
          faState := .preamble, frameStartIdx := idx, accCount := 1, accBits := setDibit 0 0 dibit
          accFirstIdx := idx, byteCount := 0, bodyCount := 0
          out := edgeEvents s idx true dibit ++ [.frameStart idx] }
  | pushed (clk : Bool) (dibit : Dibit) (idx : Index)
      (hi : s.indexRefused idx = false) (he : s.isEdge clk = true)
      (hf : s.faState = .preamble ∨ s.faState = .inFrame) (ha : s.accCount ≠ 3) :
      Effect s (.sample clk true dibit idx)
        { s with
          havePrev := true, prevClk := clk, lastIdx := idx, haveEdge := true, lastEdgeIdx := idx
          accCount := s.accCount + 1, accBits := setDibit s.accBits s.accCount dibit
          accFirstIdx := if s.accCount = 0 then idx else s.accFirstIdx
          out := edgeEvents s idx true dibit }
  | byte (clk : Bool) (dibit : Dibit) (idx : Index)
      (hi : s.indexRefused idx = false) (he : s.isEdge clk = true)
      (hf : s.faState = .preamble ∨ s.faState = .inFrame) (ha : s.accCount = 3) :
      Effect s (.sample clk true dibit idx)
        { s with
          havePrev := true, prevClk := clk, lastIdx := idx, haveEdge := true, lastEdgeIdx := idx
          faState := if s.faState ≠ .inFrame ∧ assembleByte s.accBits dibit = sfdByte then .inFrame else s.faState
          byteCount := satInc s.byteCount
          bodyCount := if s.faState = .inFrame then satInc s.bodyCount else s.bodyCount
          accCount := 0, accBits := 0, accFirstIdx := 0
          out := edgeEvents s idx true dibit ++
            [.byteDecoded s.accFirstIdx idx (assembleByte s.accBits dibit) s.frameStartIdx] }
  | closed (clk : Bool) (dibit : Dibit) (idx : Index)
      (hi : s.indexRefused idx = false) (he : s.isEdge clk = true)
      (hf : s.faState = .preamble ∨ s.faState = .inFrame) :
      Effect s (.sample clk false dibit idx)
        { s with
          havePrev := true, prevClk := clk, lastIdx := idx, haveEdge := true, lastEdgeIdx := idx
          faState := .idle, accCount := 0, accBits := 0, accFirstIdx := 0
          frameStartIdx := 0, byteCount := 0, bodyCount := 0
          out := edgeEvents s idx false dibit ++ deassertEvents s idx }

/-- An idle FrameAssembler at an edge with CTRL = 0. -/
theorem dispatch_quiet (s : State) (clk : Bool) (dibit : Dibit) (idx : Index) (hf : s.faState = .idle) :
    frameStep idx false dibit (s.atDispatch clk false dibit idx) = .next (s.atDispatch clk false dibit idx) :=
  frameStep_idle_low (s.atDispatch clk false dibit idx) idx dibit hf

/-- An idle FrameAssembler at an edge with CTRL = 1. -/
theorem dispatch_opened (s : State) (clk : Bool) (dibit : Dibit) (idx : Index) (hf : s.faState = .idle) :
    frameStep idx true dibit (s.atDispatch clk true dibit idx) =
      .next { s with
        havePrev := true, prevClk := clk, lastIdx := idx, haveEdge := true, lastEdgeIdx := idx
        faState := .preamble, frameStartIdx := idx, accCount := 1, accBits := setDibit 0 0 dibit
        accFirstIdx := idx, byteCount := 0, bodyCount := 0
        out := edgeEvents s idx true dibit ++ [.frameStart idx] } := by
  rw [frameStep_idle_high (s.atDispatch clk true dibit idx) idx dibit hf, State.start_consume_eq]
  rfl

/-- An open frame at an edge with CTRL = 1, its accumulator not full. -/
theorem dispatch_pushed (s : State) (clk : Bool) (dibit : Dibit) (idx : Index)
    (hf : s.faState = .preamble ∨ s.faState = .inFrame) (ha : s.accCount ≠ 3) :
    frameStep idx true dibit (s.atDispatch clk true dibit idx) =
      .next ((s.atDispatch clk true dibit idx).pushDibit idx dibit) := by
  rw [frameStep_open_high (s.atDispatch clk true dibit idx) idx dibit hf,
    State.consume_push (s.atDispatch clk true dibit idx) idx dibit ha]

/-- An open frame at an edge with CTRL = 1, its accumulator full. -/
theorem dispatch_byte (s : State) (clk : Bool) (dibit : Dibit) (idx : Index)
    (hf : s.faState = .preamble ∨ s.faState = .inFrame) (ha : s.accCount = 3) :
    frameStep idx true dibit (s.atDispatch clk true dibit idx) =
      .next { s with
        havePrev := true, prevClk := clk, lastIdx := idx, haveEdge := true, lastEdgeIdx := idx
        faState := if s.faState ≠ .inFrame ∧ assembleByte s.accBits dibit = sfdByte then .inFrame else s.faState
        byteCount := satInc s.byteCount
        bodyCount := if s.faState = .inFrame then satInc s.bodyCount else s.bodyCount
        accCount := 0, accBits := 0, accFirstIdx := 0
        out := edgeEvents s idx true dibit ++
          [.byteDecoded s.accFirstIdx idx (assembleByte s.accBits dibit) s.frameStartIdx] } := by
  rw [frameStep_open_high (s.atDispatch clk true dibit idx) idx dibit hf,
    State.consume_complete (s.atDispatch clk true dibit idx) idx dibit ha, State.completeByte_eq]
  rfl

/-- An open frame at an edge with CTRL = 0. -/
theorem dispatch_closed (s : State) (clk : Bool) (dibit : Dibit) (idx : Index)
    (hf : s.faState = .preamble ∨ s.faState = .inFrame) :
    frameStep idx false dibit (s.atDispatch clk false dibit idx) =
      .next { s with
        havePrev := true, prevClk := clk, lastIdx := idx, haveEdge := true, lastEdgeIdx := idx
        faState := .idle, accCount := 0, accBits := 0, accFirstIdx := 0
        frameStartIdx := 0, byteCount := 0, bodyCount := 0
        out := edgeEvents s idx false dibit ++ deassertEvents s idx } := by
  rw [frameStep_open_low (s.atDispatch clk false dibit idx) idx dibit hf, State.close_eq,
    closeEvents_deassert]
  rfl

/-- EOS with no frame open. -/
theorem execEos_idle (s : State) (hf : s.faState = .idle) :
    execEos s = .next { State.reset with cfg := s.cfg, input := s.input } := by
  have ho : s.frameOpen = false := by simp [State.frameOpen, hf]
  simp only [execEos, ho, Bool.false_eq_true, if_false]
  rfl

/-- EOS with a frame open. -/
theorem execEos_open (s : State) (hf : s.faState ≠ .idle) :
    execEos s = .next { State.reset with cfg := s.cfg, input := s.input, out := truncatedEvents s } := by
  have ho : s.frameOpen = true := by simpa [State.frameOpen] using hf
  simp only [execEos, ho, if_true, State.close_eq]
  have hc : closeEvents s.beginCommand s.lastIdx .eos = truncatedEvents s := closeEvents_eos s.beginCommand
  rw [hc]
  rfl

/-- Each of Effect's states is answered. -/
theorem exec_of_effect {i : Instr} {s t : State} (h : Effect s i t) : exec i s = .next t := by
  cases h with
  | reset => rfl
  | nop => rfl
  | eosIdle hf => exact execEos_idle s hf
  | eosOpen hf => exact execEos_open s hf
  | level clk ctrl dibit idx hi he => exact execSample_level _ _ _ _ _ hi he
  | quiet clk dibit idx hi he hf =>
    exact (execSample_edge _ _ _ _ _ hi he).trans
      ((congrArg _ (edgeStages_atDispatch _ _ _ _ _)).trans (dispatch_quiet _ _ _ _ hf))
  | opened clk dibit idx hi he hf =>
    exact (execSample_edge _ _ _ _ _ hi he).trans
      ((congrArg _ (edgeStages_atDispatch _ _ _ _ _)).trans (dispatch_opened _ _ _ _ hf))
  | pushed clk dibit idx hi he hf ha =>
    exact (execSample_edge _ _ _ _ _ hi he).trans
      ((congrArg _ (edgeStages_atDispatch _ _ _ _ _)).trans (dispatch_pushed _ _ _ _ hf ha))
  | byte clk dibit idx hi he hf ha =>
    exact (execSample_edge _ _ _ _ _ hi he).trans
      ((congrArg _ (edgeStages_atDispatch _ _ _ _ _)).trans (dispatch_byte _ _ _ _ hf ha))
  | closed clk dibit idx hi he hf =>
    exact (execSample_edge _ _ _ _ _ hi he).trans
      ((congrArg _ (edgeStages_atDispatch _ _ _ _ _)).trans (dispatch_closed _ _ _ _ hf))

/-- The one state that execution can answer. -/
theorem next_eq_of_exec {i : Instr} {s t u : State} (h : exec i s = .next t) (hu : exec i s = .next u) :
    u = t := by
  rw [h] at hu
  cases hu
  rfl

/-- The inversion lemma of exec: a next state is one of Effect's. -/
theorem effect_of_exec {i : Instr} {s t : State} (h : exec i s = .next t) : Effect s i t := by
  have use {u : State} (e : Effect s i u) : Effect s i t := next_eq_of_exec h (exec_of_effect e) ▸ e
  cases i with
  | reset => exact use .reset
  | nop => exact use .nop
  | eos =>
    by_cases hf : s.faState = .idle
    · exact use (.eosIdle hf)
    · exact use (.eosOpen hf)
  | sample clk ctrl dibit idx =>
    cases hi : s.indexRefused idx with
    | true =>
      have hr := h.symm.trans (execSample_refused s clk ctrl dibit idx hi)
      cases hr
    | false =>
    cases he : s.isEdge clk with
    | false => exact use (.level clk ctrl dibit idx hi he)
    | true =>
    by_cases hf : s.faState = .idle
    · cases ctrl with
      | false => exact use (.quiet clk dibit idx hi he hf)
      | true => exact use (.opened clk dibit idx hi he hf)
    · by_cases hc : s.faState = .closing
      · have hr := h.symm.trans ((execSample_edge s clk ctrl dibit idx hi he).trans
          ((congrArg _ (edgeStages_atDispatch _ _ _ _ _)).trans
            (frameStep_closing (s.atDispatch clk ctrl dibit idx) idx ctrl dibit hc)))
        cases hr
      · have ho : s.faState = .preamble ∨ s.faState = .inFrame := by
          cases hs : s.faState <;> simp_all
        cases ctrl with
        | false => exact use (.closed clk dibit idx hi he ho)
        | true =>
          by_cases ha : s.accCount = 3
          · exact use (.byte clk dibit idx hi he ho ha)
          · exact use (.pushed clk dibit idx hi he ho ha)

/-- exec answers a next state exactly when Effect gives it. -/
theorem exec_next_iff (i : Instr) (s t : State) : exec i s = .next t ↔ Effect s i t :=
  ⟨effect_of_exec, exec_of_effect⟩

/-- When exec does not answer a next state. -/
theorem exec_stops (i : Instr) (s : State) :
    (∃ t, exec i s = .next t) ∨
    (∃ clk ctrl dibit idx, i = .sample clk ctrl dibit idx ∧ s.indexRefused idx = true ∧
      exec i s = .refused .nonIncreasingIndex) ∨
    (∃ clk ctrl dibit idx, i = .sample clk ctrl dibit idx ∧ s.indexRefused idx = false ∧
      s.isEdge clk = true ∧ s.faState = .closing ∧ exec i s = .fault .closingAtDispatch) := by
  cases i with
  | reset => exact .inl ⟨_, exec_of_effect .reset⟩
  | nop => exact .inl ⟨_, exec_of_effect .nop⟩
  | eos =>
    by_cases hf : s.faState = .idle
    · exact .inl ⟨_, exec_of_effect (.eosIdle hf)⟩
    · exact .inl ⟨_, exec_of_effect (.eosOpen hf)⟩
  | sample clk ctrl dibit idx =>
    cases hi : s.indexRefused idx with
    | true => exact .inr (.inl ⟨clk, ctrl, dibit, idx, rfl, hi, execSample_refused _ _ _ _ _ hi⟩)
    | false =>
    cases he : s.isEdge clk with
    | false => exact .inl ⟨_, exec_of_effect (.level clk ctrl dibit idx hi he)⟩
    | true =>
    by_cases hc : s.faState = .closing
    · exact .inr (.inr ⟨clk, ctrl, dibit, idx, rfl, hi, he, hc,
        (execSample_edge s clk ctrl dibit idx hi he).trans
          ((congrArg _ (edgeStages_atDispatch _ _ _ _ _)).trans
            (frameStep_closing (s.atDispatch clk ctrl dibit idx) idx ctrl dibit hc))⟩)
    · by_cases hf : s.faState = .idle
      · cases ctrl with
        | false => exact .inl ⟨_, exec_of_effect (.quiet clk dibit idx hi he hf)⟩
        | true => exact .inl ⟨_, exec_of_effect (.opened clk dibit idx hi he hf)⟩
      · have ho : s.faState = .preamble ∨ s.faState = .inFrame := by
          cases hs : s.faState <;> simp_all
        cases ctrl with
        | false => exact .inl ⟨_, exec_of_effect (.closed clk dibit idx hi he ho)⟩
        | true =>
          by_cases ha : s.accCount = 3
          · exact .inl ⟨_, exec_of_effect (.byte clk dibit idx hi he ho ha)⟩
          · exact .inl ⟨_, exec_of_effect (.pushed clk dibit idx hi he ho ha)⟩

end Sys2Proof.Machine
end

