-- ==== Sys2Proof/Laws/Runs.lean ====
section
/-! SUPPORT. Lemmas on outcomes and runs, and on what exec does not read. -/

namespace Sys2Proof.Machine

@[simp] theorem mapNext_next {α β : Type} (f : α → β) (a : α) : mapNext f (.next a) = .next (f a) := rfl
@[simp] theorem mapNext_fault {α β : Type} (f : α → β) (r : Fault) : mapNext f (.fault r) = .fault r := rfl
@[simp] theorem mapNext_refused {α β : Type} (f : α → β) (r : Refusal) : mapNext f (.refused r) = .refused r := rfl

theorem mapNext_mapNext {α β γ : Type} (f : α → β) (g : β → γ) (r : Host.Outcome α Fault Refusal) :
    mapNext g (mapNext f r) = mapNext (fun a => g (f a)) r := by cases r <;> rfl

theorem mapNext_eq_next {α β : Type} {f : α → β} {r : Host.Outcome α Fault Refusal} {b : β} :
    mapNext f r = .next b ↔ ∃ a, r = .next a ∧ f a = b := by
  cases r <;> simp

@[simp] theorem runCommands_nil (s : State) : runCommands s [] = .next (s, []) := rfl

/-- A run whose first command completes. -/
theorem runCommands_cons_next {s t : State} {i : Instr} (p : List Instr) (h : exec i s = .next t) :
    runCommands s (i :: p) = mapNext (fun r => (r.1, t.out ++ r.2)) (runCommands t p) := by
  simp [runCommands, h]

/-- A completed run, its first command apart. -/
theorem runCommands_cons_inv {s t : State} {i : Instr} {p : List Instr} {evs : List Event}
    (h : runCommands s (i :: p) = .next (t, evs)) :
    ∃ u after, Effect s i u ∧ runCommands u p = .next (t, after) ∧ evs = u.out ++ after := by
  unfold runCommands at h
  split at h
  · rename_i u hu
    obtain ⟨⟨t', after⟩, hr, he⟩ := mapNext_eq_next.1 h
    cases he
    exact ⟨u, after, effect_of_exec hu, hr, rfl⟩
  · cases h
  · cases h

/-- An induction over completed runs: a property of the state before, the commands, the state after and the events, that holds of no commands and is carried back over each command. -/
theorem runCommands_induction {motive : State → List Instr → State → List Event → Prop}
    (nil : ∀ s, motive s [] s [])
    (cons : ∀ s i u p t after, Effect s i u → runCommands u p = .next (t, after) →
      motive u p t after → motive s (i :: p) t (u.out ++ after)) :
    ∀ (p : List Instr) (s t : State) (evs : List Event),
      runCommands s p = .next (t, evs) → motive s p t evs := by
  intro p
  induction p with
  | nil =>
    intro s t evs h
    cases h
    exact nil s
  | cons i p ih =>
    intro s t evs h
    obtain ⟨u, after, he, hr, rfl⟩ := runCommands_cons_inv h
    exact cons s i u p t after he hr (ih u t after hr)

/-- A run whose first command has the given effect, then a given run. -/
theorem runCommands_cons_effect {s t u : State} {i : Instr} {p : List Instr} {evs : List Event}
    (h : Effect s i t) (hr : runCommands t p = .next (u, evs)) :
    runCommands s (i :: p) = .next (u, t.out ++ evs) := by
  rw [runCommands_cons_next p (exec_of_effect h), hr]
  rfl

/-- Two completed runs one after the other. -/
theorem runCommands_append {s t u : State} {p q : List Instr} {before after : List Event}
    (h : runCommands s p = .next (t, before)) (k : runCommands t q = .next (u, after)) :
    runCommands s (p ++ q) = .next (u, before ++ after) := by
  induction p generalizing s before with
  | nil =>
    cases h
    exact k
  | cons i p ih =>
    obtain ⟨v, rest, he, hr, rfl⟩ := runCommands_cons_inv h
    rw [List.append_assoc]
    exact runCommands_cons_effect he (ih hr)

/-- A SAMPLE with REF_CLK = 0 is no edge. -/
theorem effect_low (s : State) (ctrl : Bool) (dibit : Dibit) (idx : Index) (h : s.indexRefused idx = false) :
    Effect s (.sample false ctrl dibit idx)
      { s with havePrev := true, prevClk := false, lastIdx := idx, out := [] } :=
  .level false ctrl dibit idx h (by simp [State.isEdge])

/-- The edge test on the commands is the edge test on the registers. -/
theorem State.lastClk_edge {s : State} {clk : Bool} :
    (s.lastClk = some false ∧ clk = true) ↔ s.isEdge clk = true := by
  rw [State.isEdge_iff]
  unfold State.lastClk
  cases s.havePrev <;> cases s.prevClk <;> simp

/-- Effect leaves the configuration and the host's cycles. -/
theorem Effect.frame {s t : State} {i : Instr} (h : Effect s i t) : t.cfg = s.cfg ∧ t.input = s.input := by
  cases h <;> exact ⟨rfl, rfl⟩

/-- No command reads the event port. -/
theorem exec_setOut (i : Instr) (s : State) (o : List Event) :
    exec i { s with out := o } = exec i s := by
  cases i with
  | reset => rfl
  | nop => rfl
  | sample clk ctrl dibit idx => rfl
  | eos => rfl

/-- No command reads the host's coming cycles. -/
theorem Effect.setInput {s t : State} {i : Instr} (h : Effect s i t) (q : List PortCycle) :
    Effect { s with input := q } i { t with input := q } := by
  cases h with
  | reset => exact .reset
  | nop => exact .nop
  | eosIdle hf => exact .eosIdle hf
  | eosOpen hf => exact .eosOpen (s := { s with input := q }) hf
  | level clk ctrl dibit idx hi he => exact .level (s := { s with input := q }) clk ctrl dibit idx hi he
  | quiet clk dibit idx hi he hf => exact .quiet (s := { s with input := q }) clk dibit idx hi he hf
  | opened clk dibit idx hi he hf => exact .opened (s := { s with input := q }) clk dibit idx hi he hf
  | pushed clk dibit idx hi he hf ha => exact .pushed (s := { s with input := q }) clk dibit idx hi he hf ha
  | byte clk dibit idx hi he hf ha => exact .byte (s := { s with input := q }) clk dibit idx hi he hf ha
  | closed clk dibit idx hi he hf => exact .closed (s := { s with input := q }) clk dibit idx hi he hf

/-- The register tests of an accepted SAMPLE, from the hypotheses statements give. -/
theorem State.accepted_of {s : State} {idx : Index} (h : ¬ (s.havePrev = true ∧ idx ≤ s.lastIdx)) :
    s.indexRefused idx = false := by
  cases hi : s.indexRefused idx with
  | false => rfl
  | true => exact absurd ((s.indexRefused_iff idx).1 hi) h

theorem State.accepted_of_lt {s : State} {idx : Index} (h : s.lastIdx < idx) : s.indexRefused idx = false :=
  State.accepted_of fun hc => absurd h (BitVec.not_lt.2 hc.2)

theorem State.edge_of {s : State} (hp : s.havePrev = true) (hc : s.prevClk = false) : s.isEdge true = true :=
  (s.isEdge_iff true).2 ⟨hp, hc, rfl⟩

theorem State.level_of {s : State} {clk : Bool} (h : ¬ (s.havePrev = true ∧ s.prevClk = false ∧ clk = true)) :
    s.isEdge clk = false := by
  cases he : s.isEdge clk with
  | false => rfl
  | true => exact absurd ((s.isEdge_iff clk).1 he) h

/-- An accepted SAMPLE's index is above the last one of its stream. -/
theorem State.lt_of_accepted {s : State} {idx : Index} (h : s.indexRefused idx = false) (hp : s.havePrev = true) :
    s.lastIdx < idx := by
  have hn : ¬ idx ≤ s.lastIdx := fun hle => by
    have := (s.indexRefused_iff idx).2 ⟨hp, hle⟩
    rw [h] at this
    cases this
  exact BitVec.not_le.1 hn

end Sys2Proof.Machine
end

