-- ==== Sys2Proof/Laws/Events.lean ====
section
/-! SUPPORT. The event lists of an edge, of a close and of EOS, read by the functions of Safety.lean. -/

namespace Sys2Proof.Machine

/-- Reading a concatenation for open frames. -/
theorem frameOpenAfter_append (b : Bool) (l m : List Event) :
    frameOpenAfter b (l ++ m) = (frameOpenAfter b l).bind fun c => frameOpenAfter c m := by
  induction l generalizing b with
  | nil => rfl
  | cons e l ih => cases e <;> cases b <;> simp [frameOpenAfter, ih]

theorem frameOpenAfter_edge (b : Bool) (s : State) (idx : Index) (ctrl : Bool) (dibit : Dibit) :
    frameOpenAfter b (edgeEvents s idx ctrl dibit) = some b := by
  unfold edgeEvents
  split <;> rfl

theorem frameOpenAfter_deassert (s : State) (idx : Index) :
    frameOpenAfter true (deassertEvents s idx) = some false := by
  simp only [deassertEvents]
  (repeat' split) <;> rfl

theorem frameOpenAfter_truncated (s : State) : frameOpenAfter true (truncatedEvents s) = some false := by
  simp only [truncatedEvents]
  (repeat' split) <;> rfl

/-- Reading a concatenation for the frames' agreement. -/
theorem framesAgree_append (f : Option SeenFrame) (l m : List Event) :
    framesAgree f (l ++ m) = (framesAgree f l).bind fun g => framesAgree g m := by
  induction l generalizing f with
  | nil => rfl
  | cons e l ih =>
    cases e <;> cases f <;> simp only [List.cons_append, framesAgree, ih] <;> first | rfl | (split <;> rfl)

theorem framesAgree_edge (f : Option SeenFrame) (s : State) (idx : Index) (ctrl : Bool) (dibit : Dibit) :
    framesAgree f (edgeEvents s idx ctrl dibit) = some f := by
  unfold edgeEvents
  split <;> cases f <;> rfl

theorem framesAgree_markerIf (f : Option SeenFrame) (c : Prop) [Decidable c] (kind : MarkerKind)
    (first last : Index) (detail : BitVec 64) :
    framesAgree f (if c then [.errorMarker first last kind detail] else []) = some f := by
  split <;> cases f <;> rfl

/-- The events of an edge start and end no frame, and a close ends the one that waits. -/
theorem everyFrameEnds_edge (b : Bool) (s : State) (idx : Index) (ctrl : Bool) (dibit : Dibit) (es : List Event) :
    everyFrameEnds b (edgeEvents s idx ctrl dibit ++ es) = everyFrameEnds b es := by
  unfold edgeEvents
  split <;> rfl

theorem everyFrameEnds_deassert (b : Bool) (s : State) (idx : Index) (es : List Event) :
    everyFrameEnds b (deassertEvents s idx ++ es) = everyFrameEnds false es := by
  simp only [deassertEvents]
  (repeat' split) <;> rfl

theorem everyFrameEnds_truncated (b : Bool) (s : State) (es : List Event) :
    everyFrameEnds b (truncatedEvents s ++ es) = everyFrameEnds false es := by
  simp only [truncatedEvents]
  (repeat' split) <;> rfl

/-- The end-of-run test on a completed run. -/
theorem finishedRun_of_run {s t : State} {p : List Instr} {evs : List Event}
    (h : runCommands s p = .next (t, evs)) :
    finishedRun s p = (endsWithEos p && everyFrameEnds false evs) := by
  simp [finishedRun, h]

/-- One clock edge's events hold one ClockEdge, no byte and no frame event. -/
theorem edgeEvents_clockEdges (s : State) (idx : Index) (ctrl : Bool) (dibit : Dibit) :
    (edgeEvents s idx ctrl dibit).countP Event.isClockEdge = 1 := by
  unfold edgeEvents
  split <;> rfl

theorem edgeEvents_bytes (s : State) (idx : Index) (ctrl : Bool) (dibit : Dibit) :
    (edgeEvents s idx ctrl dibit).filter Event.isByteDecoded = [] := by
  unfold edgeEvents
  split <;> rfl

theorem edgeEvents_starts (s : State) (idx : Index) (ctrl : Bool) (dibit : Dibit) :
    (edgeEvents s idx ctrl dibit).filter Event.isFrameStart = [] := by
  unfold edgeEvents
  split <;> rfl

theorem edgeEvents_ends (s : State) (idx : Index) (ctrl : Bool) (dibit : Dibit) :
    (edgeEvents s idx ctrl dibit).filter Event.isFrameEnd = [] := by
  unfold edgeEvents
  split <;> rfl

/-- A frame is open after a completed byte. -/
theorem byte_keeps_open {s : State} (hf : s.faState = .preamble ∨ s.faState = .inFrame) (v : Byte) :
    ((if s.faState ≠ .inFrame ∧ v = sfdByte then FaState.inFrame else s.faState) != FaState.idle) = true := by
  split
  · rfl
  · rcases hf with h | h <;> rw [h] <;> rfl

theorem State.frameOpen_of {s : State} (hf : s.faState = .preamble ∨ s.faState = .inFrame) : s.frameOpen = true := by
  rcases hf with h | h <;> simp [State.frameOpen, h]

theorem State.frameOpen_idle {s : State} (hf : s.faState = .idle) : s.frameOpen = false := by
  simp [State.frameOpen, hf]

end Sys2Proof.Machine
end

