-- ==== Sys2Proof/Laws/PerInstr.lean ====
section
/-! SUPPORT. Statements about every command, one lemma per constructor. -/

namespace Sys2Proof.Laws.TableRow

/-- The row of 30_encoding.md R72 that a command belongs to. -/
def row : Instr → CommandRow
  | .reset => resetRow
  | .nop => nopRow
  | .sample _ _ _ _ => sampleRow
  | .eos => eosRow

/-- The command's canonical word is one of its own row's, and no row above takes it (30_encoding.md R72). -/
def Statement (i : Instr) : Prop := matchingRow (encodeWord i) = some (row i)

theorem reset : Statement .reset := by
  unfold Statement
  decide

theorem nop : Statement .nop := by
  unfold Statement
  decide

theorem sample (clk ctrl : Bool) (dibit : Dibit) (idx : Index) : Statement (.sample clk ctrl dibit idx) := by
  unfold Statement
  show matchingRow (0b010#3 ++ BitVec.ofBool clk ++ BitVec.ofBool ctrl ++ dibit) = some sampleRow
  revert clk ctrl dibit
  decide

theorem eos : Statement .eos := by
  unfold Statement
  decide

end Sys2Proof.Laws.TableRow
end

