-- ==== Sys2Proof/Laws/Text.lean ====
section
/-! SUPPORT. The tokens and the numbers of the text syntax. -/

namespace Sys2Proof.Machine

/-- The tokens of a line that begins with a character. -/
theorem tokens_cons (c : Char) (cs : List Char) :
    tokens (c :: cs) =
      if c = ' ' ∨ c = '\t' then tokens cs
      else match cs, tokens cs with
        | d :: _, t :: ts => if d = ' ' ∨ d = '\t' then [c] :: t :: ts else (c :: t) :: ts
        | _, ts => [c] :: ts := by
  cases cs <;> rfl

/-- A list of characters that no blank cuts. -/
def isToken (t : List Char) : Prop := t ≠ [] ∧ ∀ c ∈ t, c ≠ ' ' ∧ c ≠ '\t'

/-- A token alone. -/
theorem tokens_single (t : List Char) (h : isToken t) : tokens t = [t] := by
  obtain ⟨hn, h⟩ := h
  induction t with
  | nil => exact absurd rfl hn
  | cons c t ih =>
    have hc := h c (by simp)
    cases t with
    | nil => simp [tokens, hc]
    | cons d t =>
      have hd := h d (by simp)
      rw [tokens_cons, if_neg (by simp [hc]), ih (by simp) fun x hx => h x (by simp [hx])]
      simp [hd]

/-- A token, a blank, then a line that has tokens. -/
theorem tokens_append (t rest : List Char) (h : isToken t) (hr : tokens rest ≠ []) :
    tokens (t ++ ' ' :: rest) = t :: tokens rest := by
  obtain ⟨hn, h⟩ := h
  have hs : tokens (' ' :: rest) = tokens rest := by rw [tokens_cons, if_pos (by simp)]
  induction t with
  | nil => exact absurd rfl hn
  | cons c t ih =>
    have hc := h c (by simp)
    cases t with
    | nil =>
      show tokens (c :: ' ' :: rest) = _
      rw [tokens_cons, if_neg (by simp [hc]), hs]
      cases hk : tokens rest with
      | nil => exact absurd hk hr
      | cons a b => simp
    | cons d t =>
      have hd := h d (by simp)
      have ht := ih (by simp) fun x hx => h x (by simp [hx])
      show tokens (c :: (d :: t ++ ' ' :: rest)) = _
      rw [tokens_cons, if_neg (by simp [hc]), ht]
      simp [hd]

/-- The value of a decimal digit. -/
theorem digitValue_digitChar (d : Nat) (h : d < 10) : digitValue (Nat.digitChar d) = some d := by
  interval_cases d <;> decide

/-- Digits read one list after the other. -/
theorem readDigits_append (b a : Nat) (l m : List Char) :
    readDigits b a (l ++ m) = (readDigits b a l).bind fun x => readDigits b x m := by
  induction l generalizing a with
  | nil => rfl
  | cons c l ih =>
    simp only [List.cons_append, readDigits]
    cases digitValue c with
    | none => rfl
    | some d =>
      dsimp only
      split
      · exact ih _
      · rfl

/-- The decimal digits of a number read back. -/
theorem readDigits_printNat (n : Nat) : readDigits 10 0 (printNat n) = some n := by
  unfold printNat
  induction n using Nat.strong_induction_on with
  | _ n ih =>
    by_cases h : n < 10
    · rw [Nat.toDigits_of_lt_base h]
      simp [readDigits, digitValue_digitChar n h, h]
    · rw [Nat.toDigits_of_base_le (by decide) (by omega), readDigits_append, ih (n / 10) (by omega)]
      have hm : n % 10 < 10 := Nat.mod_lt _ (by decide)
      simp only [Option.bind_some, readDigits, digitValue_digitChar _ hm, if_pos hm]
      congr 1
      omega

end Sys2Proof.Machine
end

