-- ==== Sys2Proof/Laws/Words.lean ====
section
/-! SUPPORT. Fields of concatenated words, for the encodings. Stated over any widths, so that they apply where a concatenation's width is written as one number. -/

namespace Sys2Proof

/-- The low part of a concatenation. -/
theorem extract_low {m n : Nat} (x : BitVec m) (y : BitVec n) : (x ++ y).extractLsb' 0 n = y := by
  apply BitVec.eq_of_getLsbD_eq
  intro i hi
  simp [BitVec.getLsbD_append, hi]

/-- A field of the high part of a concatenation. -/
theorem extract_high {m n : Nat} (x : BitVec m) (y : BitVec n) (k l : Nat) :
    (x ++ y).extractLsb' (n + k) l = x.extractLsb' k l := by
  apply BitVec.eq_of_getLsbD_eq
  intro i hi
  simp [BitVec.getLsbD_append, hi, Nat.add_assoc]

/-- A whole word as its own field. -/
theorem extract_all {m : Nat} (x : BitVec m) : x.extractLsb' 0 m = x := by
  apply BitVec.eq_of_getLsbD_eq
  intro i hi
  simp [hi]

/-- A bit of the high part of a concatenation. -/
theorem bit_high {m n : Nat} (x : BitVec m) (y : BitVec n) (k : Nat) :
    (x ++ y).getLsbD (n + k) = x.getLsbD k := by
  simp [BitVec.getLsbD_append]

/-- A field of a field. -/
theorem extract_extract {m : Nat} (x : BitVec m) (a l b k : Nat) (h : b + k ≤ l) :
    (x.extractLsb' a l).extractLsb' b k = x.extractLsb' (a + b) k := by
  apply BitVec.eq_of_getLsbD_eq
  intro i hi
  have : b + i < l := by omega
  simp [hi, this, Nat.add_assoc]

/-- Nothing above a zero-extended word. -/
theorem zero_append_shift {m n : Nat} (y : BitVec n) : (0#m ++ y) >>> n = 0#(m + n) := by
  apply BitVec.eq_of_getLsbD_eq
  intro i hi
  simp [BitVec.getLsbD_append]

end Sys2Proof
end

