-- ==== Sys2Proof/Tests/Slice0.lean ====
section
/-! SUPPORT. The model's own tests: expected results from the examples of spec/, and for every obligation with hypotheses a witness that meets them. -/

namespace Sys2Proof.Tests

open Sys2Proof Sys2Proof.Machine

/-- The next state of an outcome, if it is one. -/
def nextOf (r : Host.Outcome State Fault Refusal) : Option State :=
  match r with
  | .next t => some t
  | .fault _ => none
  | .refused _ => none

/-- A state inside a stream: last sample 8 with REF_CLK = 0, last edge 7, a frame of the given state since index 3. -/
def mid (fa : FaState) (acc : BitVec 2) (bits : BitVec 6) (bytes body : Count) : State :=
  { State.reset with
    havePrev := true, lastIdx := 8, haveEdge := true, lastEdgeIdx := 7, faState := fa
    accCount := acc, accBits := bits, accFirstIdx := if acc = 0 then 0 else 3, frameStartIdx := 3
    byteCount := bytes, bodyCount := body }

/-- The same stream with no frame open. -/
def quiet : State :=
  { State.reset with havePrev := true, lastIdx := 8, haveEdge := true, lastEdgeIdx := 7 }

/-! ### Well-formedness: ill-formed terms are refused -/

theorem test_table_word_with_padding_bit_refused : tableWordWf 0x80 = false := by decide
theorem test_table_word_too_long_refused : tableWordWf (2 ^ 72) = false := by decide
theorem test_ill_formed_table_word_decodes_to_none : decodeTableWord 8 0xAD = none := by decide
/-- Vector E6 of 95_test_vectors.md. -/
theorem test_equal_indices_refused :
    indicesIncrease none [.sample false false 0 5, .sample true false 0 5] = false := by decide
theorem test_decreasing_indices_refused :
    indicesIncrease none [.sample false false 0 5, .nop, .sample true false 0 4] = false := by decide
/-- Vector E7: after EOS the index may restart. -/
theorem test_indices_may_restart_after_eos :
    indicesIncrease none [.sample false false 0 9, .eos, .sample true false 0 0] = true := by decide
theorem test_run_without_last_eos_refused : endsWithEos [.eos, .nop] = false := by decide
theorem test_empty_run_refused : endsWithEos [] = false := by decide
/-- R204: every FrameStart has its FrameEnd; FrameStart, FrameStart is what a RESET inside a frame leaves (vector X6). -/
theorem test_abandoned_frame_refused : everyFrameEnds false [.frameStart 1, .frameStart 1] = false := by decide
theorem test_open_frame_refused : everyFrameEnds false [.frameStart 1] = false := by decide

/-! ### Command words written out from 30_encoding.md R71, R72 -/

theorem test_decode_reset : decode 0b1000000 0 = .reset := by decide
/-- `rst` wins over every other bit (95_test_vectors.md 2.1). -/
theorem test_decode_reset_wins : decode 0b1111111 3 = .reset := by decide
theorem test_decode_nop : decode 0b0000000 0 = .nop := by decide
theorem test_decode_nop_ignores_low_bits : decode 0b0011111 3 = .nop := by decide
/-- `S 7 1 1 01` is W = 0x2D (R91). -/
theorem test_decode_sample : decode 0b0101101 7 = .sample true true 0b01 7 := by decide
/-- `S 0 1 0 11` is W = 0x2B (95_test_vectors.md 2.1). -/
theorem test_decode_sample_fields : decode 0b0101011 0 = .sample true false 0b11 0 := by decide
theorem test_decode_eos : decode 0b0110000 0 = .eos := by decide
theorem test_decode_eos_ignores_low_bits : decode 0b0111111 3 = .eos := by decide
theorem test_table_word_sample : decodeTableWord 8 0x2D = some (.sample true true 0b01 0) := by decide
theorem test_table_word_index : decodeTableWord 72 0x72D = some (.sample true true 0b01 7) := by decide

/-- The fetched word runs first after reset: S 7 0 1 01 records its sample. -/
theorem test_step_runs_fetched_word :
    nextOf (step (State.reset.withFetchWord 72 0x725)) =
      some { State.reset with havePrev := true, lastIdx := 7 } := by decide

/-! ### Event words (95_test_vectors.md 2.1) -/

theorem test_word_clock_edge : (Event.clockEdge 1).encode.toNat = 0x100000000000000010 := by decide
theorem test_word_symbol : (Event.symbolDecoded 1 0b01 true).encode.toNat =
    0x5000000000000000100000000000000011 := by decide
theorem test_word_frame_start : (Event.frameStart 1).encode.toNat = 0x100000000000000013 := by decide
theorem test_word_byte : (Event.byteDecoded 1 7 0x55 1).encode.toNat =
    0x155000000000000000700000000000000012 := by decide
theorem test_word_frame_end :
    (Event.frameEnd 1 429 .completeUnaligned 2 0b001101 53 45 true).encode.toNat =
      0x800000168000001A9B200000000000001AD00000000000000014 := by decide
theorem test_word_dribble : (Event.errorMarker 1 429 .dribble 2).encode.toNat =
    0x2300000000000001AD00000000000000015 := by decide
theorem test_word_spacing : (Event.errorMarker 11 17 .unexpectedEdgeSpacing 6).encode.toNat =
    0x650000000000000011000000000000000B5 := by decide

/-! ### Text (30_encoding.md R91 to R93) -/

theorem test_text_sample : assembleLine (chars "S 7 1 1 01 ; comment") = some [.sample true true 0b01 7] := by decide
theorem test_text_hex_index : assembleLine (chars "S 0x1F 0 0 10") = some [.sample false false 0b10 31] := by decide
/-- `CYC 1 0 01` (vector Y1). -/
theorem test_text_cyc : assembleLine (chars "CYC 1 0 01") =
    some [.sample false false 0b01 2, .sample true false 0b01 3] := by decide
theorem test_text_other_word_refused : assembleLine (chars "EOSX") = none := by decide
/-- Vector K1a. -/
theorem test_text_frame_end :
    printEvent (.frameEnd 1 3 .falseCarrier 1 0b000001 0 0 false) =
      chars "FE[1..3]" ++ braced (chars "FALSE_CARRIER,res=1:0b000001,bytes=0,body=0,sfd=0") := by decide
theorem test_text_byte : printEvent (.byteDecoded 1 7 0xD5 1) = chars "BYTE[1..7]" ++ braced (chars "0xD5,ref=1") := by
  decide

/-! ### One step of each command, from the spec's own examples -/

/-- R250's example: IN_FRAME with `byte_count = 20`. -/
theorem test_reset_abandons_frame :
    nextOf (exec .reset (mid .inFrame 2 0b001001 20 12)) = some State.reset := by decide

/-- R200's example: the sample before the NOP is still the preceding one. -/
theorem test_nop_keeps_prior_sample :
    (nextOf (exec .nop { State.reset with havePrev := true, lastIdx := 4 })).map (fun t => t.isEdge true) =
      some true := by decide

/-- R134's example: `acc_bits = 0b010101`, the dibit 11 at edge 9 completes the SFD. -/
theorem test_sample_completes_sfd :
    (nextOf (exec (.sample true true 0b11 9) (mid .preamble 3 0b010101 7 0))).map
        (fun t => (t.out.drop 2, t.faState, t.byteCount, t.accCount)) =
      some ([.byteDecoded 3 9 0xD5 3], .inFrame, 8, 0) := by decide

/-- R182's example under REF: 8 bytes 0x55, then deassertion at a byte boundary. -/
theorem test_sample_closes_without_sfd :
    (nextOf (exec (.sample true false 0b11 9) (mid .preamble 0 0 8 0))).map (fun t => (t.out.drop 2, t.faState)) =
      some ([.frameEnd 3 9 .completeAligned 0 0 8 0 false, .errorMarker 3 9 .missingSfd 8], .idle) := by decide

/-- R201's example. -/
theorem test_eos_truncates :
    (nextOf (exec .eos { mid .inFrame 1 0b000011 10 2 with lastIdx := 90 })).map (fun t => t.out) =
      some [.frameEnd 3 90 .truncated 1 0b000011 10 2 true, .errorMarker 3 90 .truncated 1] := by decide

/-- R201: EOS with no frame open emits nothing. -/
theorem test_eos_idle : nextOf (exec .eos quiet) = some State.reset := by decide

/-! ### Witnesses: states and operands that meet each statement's hypotheses -/

theorem witness_ResetCycleClearsEveryRegister :
    ∃ (s : State) (c : PortCycle) (rest : List PortCycle), s.input = c :: rest ∧ c.rst = true ∧ s.frameOpen = true :=
  ⟨{ mid .inFrame 2 0b001001 20 12 with input := [⟨true, 0b101101, 9, Config.ref⟩] }, _, _, rfl, rfl, by decide⟩

/-- Both sides of the boundary: the last index is refused, the next one is not, and any index may come first. -/
theorem witness_SampleRefusedExactlyOnNonIncreasingIndex :
    (∃ s : State, s.faState ≠ .closing ∧ (s.havePrev = true ∧ (8 : Index) ≤ s.lastIdx)) ∧
    (∃ s : State, s.faState ≠ .closing ∧ s.havePrev = true ∧ ¬ (s.havePrev = true ∧ (9 : Index) ≤ s.lastIdx)) ∧
    (∃ s : State, s.faState ≠ .closing ∧ ¬ (s.havePrev = true ∧ (0 : Index) ≤ s.lastIdx)) :=
  ⟨⟨quiet, by decide⟩, ⟨quiet, by decide⟩, ⟨State.reset, by decide⟩⟩

theorem witness_EdgeInClosingStops :
    ∃ (s : State) (idx : Index), s.faState = .closing ∧ s.havePrev = true ∧ s.prevClk = false ∧ s.lastIdx < idx :=
  ⟨mid .closing 1 0 1 0, 9, by decide⟩

theorem witness_ClockEdgeExactlyOnRisingSample :
    (∃ s t : State, exec (.sample true true 0 9) s = .next t ∧ s.havePrev = true ∧ s.prevClk = false) ∧
    (∃ s t : State, exec (.sample false true 0 9) s = .next t ∧ s.havePrev = true ∧ s.prevClk = false) ∧
    (∃ s t : State, exec (.sample true true 0 9) s = .next t ∧ s.havePrev = true ∧ s.prevClk = true) ∧
    (∃ s t : State, exec (.sample true true 0 0) s = .next t ∧ s.havePrev = false) :=
  ⟨⟨quiet, _, rfl, by decide⟩, ⟨quiet, _, rfl, by decide⟩,
    ⟨{ quiet with prevClk := true }, _, rfl, by decide⟩, ⟨State.reset, _, rfl, by decide⟩⟩

theorem witness_FirstSampleIsNeverAnEdge :
    (∃ s : State, s.havePrev = false) ∧
    (∃ (s : State) (idx : Index), s.havePrev = true ∧ s.prevClk = true ∧ s.lastIdx < idx) ∧
    (∃ s t : State, exec .reset s = .next t) ∧ (∃ s t : State, exec .eos s = .next t) :=
  ⟨⟨State.reset, rfl⟩, ⟨{ quiet with prevClk := true }, 9, by decide⟩, ⟨quiet, _, rfl⟩, ⟨quiet, _, rfl⟩⟩

theorem witness_AcceptedSampleWritesPriorState :
    ∃ (s : State) (idx : Index), s.faState ≠ .closing ∧ s.havePrev = true ∧ ¬ (s.havePrev = true ∧ idx ≤ s.lastIdx) :=
  ⟨quiet, 9, by decide⟩

theorem witness_LevelSampleWritesOnlyPriorState :
    ∃ (s : State) (clk : Bool) (idx : Index), s.frameOpen = true ∧ ¬ (s.havePrev = true ∧ idx ≤ s.lastIdx) ∧
      ¬ (s.havePrev = true ∧ s.prevClk = false ∧ clk = true) :=
  ⟨mid .inFrame 1 0 1 0, false, 9, by decide⟩

theorem witness_OneSymbolPerEdge :
    (∃ s t : State, exec (.sample true false 0b10 9) s = .next t ∧ s.havePrev = true ∧ s.prevClk = false) ∧
    (∃ s t : State, exec (.sample false false 0b10 9) s = .next t) :=
  ⟨⟨quiet, _, rfl, by decide⟩, ⟨quiet, _, rfl⟩⟩

/-- Distances 2 and 4 are in bounds under REF, 1 and 5 are not; the first edge is not checked; with min over max every distance is out. -/
theorem witness_EdgeSpacingMarkedExactlyWhenImplausible :
    (∃ (s t : State), s.havePrev = true ∧ s.prevClk = false ∧ s.haveEdge = true ∧
      exec (.sample true false 0 9) s = .next t ∧ (9 : Index) - s.lastEdgeIdx = s.cfg.edgeDeltaMin) ∧
    (∃ (s t : State), s.havePrev = true ∧ s.prevClk = false ∧ s.haveEdge = true ∧
      exec (.sample true false 0 11) s = .next t ∧ (11 : Index) - s.lastEdgeIdx = s.cfg.edgeDeltaMax) ∧
    (∃ (s t : State), s.havePrev = true ∧ s.prevClk = false ∧ s.haveEdge = true ∧
      exec (.sample true false 0 12) s = .next t ∧ s.cfg.edgeDeltaMax < (12 : Index) - s.lastEdgeIdx) ∧
    (∃ (s t : State), s.havePrev = true ∧ s.prevClk = false ∧ s.haveEdge = true ∧
      exec (.sample true false 0 9) s = .next t ∧ (9 : Index) - s.lastEdgeIdx < s.cfg.edgeDeltaMin) ∧
    (∃ (s t : State), s.havePrev = true ∧ s.prevClk = false ∧ s.haveEdge = false ∧
      exec (.sample true false 0 99) s = .next t) ∧
    (∃ (s t : State), s.havePrev = true ∧ s.prevClk = false ∧ s.haveEdge = true ∧
      exec (.sample true false 0 9) s = .next t ∧ s.cfg.edgeDeltaMax < s.cfg.edgeDeltaMin) :=
  ⟨⟨quiet, _, rfl, rfl, rfl, rfl, by decide⟩, ⟨quiet, _, rfl, rfl, rfl, rfl, by decide⟩,
    ⟨quiet, _, rfl, rfl, rfl, rfl, by decide⟩, ⟨{ quiet with lastEdgeIdx := 8 }, _, rfl, rfl, rfl, rfl, by decide⟩,
    ⟨{ State.reset with havePrev := true }, _, rfl, rfl, rfl, rfl⟩,
    ⟨{ quiet with cfg := { Config.ref with edgeDeltaMin := 5 } }, _, rfl, rfl, rfl, rfl, by decide⟩⟩

theorem witness_IdleEdgeWithoutCarrierChangesNoFrame :
    ∃ (s : State) (idx : Index), s.havePrev = true ∧ s.prevClk = false ∧ s.lastIdx < idx ∧ s.faState = .idle :=
  ⟨quiet, 9, by decide⟩

theorem witness_CarrierStartsAFrame :
    ∃ (s : State) (idx : Index), s.havePrev = true ∧ s.prevClk = false ∧ s.lastIdx < idx ∧ s.faState = .idle :=
  ⟨{ State.reset with havePrev := true, lastIdx := 8 }, 9, by decide⟩

/-- Each of the three places of the accumulator, in both open states. -/
theorem witness_DibitIsBuffered :
    ∀ k : BitVec 2, k ≠ 3 → ∃ (s : State) (idx : Index), s.accCount = k ∧
      s.havePrev = true ∧ s.prevClk = false ∧ s.lastIdx < idx ∧
      (s.faState = .preamble ∨ s.faState = .inFrame) ∧ s.accCount ≠ 3 :=
  fun k hk => ⟨mid .preamble k 0 1 0, 9, rfl, rfl, rfl, (by decide : (8 : Index) < 9), .inl rfl, hk⟩

/-- The SFD in PREAMBLE, payload 0xD5 in IN_FRAME, and saturated counters. -/
theorem witness_FourthDibitCompletesAByte :
    (∃ (s : State) (idx : Index), s.havePrev = true ∧ s.prevClk = false ∧ s.lastIdx < idx ∧
      (s.faState = .preamble ∨ s.faState = .inFrame) ∧ s.accCount = 3 ∧
      s.faState = .preamble ∧ (0b11#2 ++ s.accBits : BitVec 8) = 0xD5) ∧
    (∃ (s : State) (idx : Index), s.havePrev = true ∧ s.prevClk = false ∧ s.lastIdx < idx ∧
      (s.faState = .preamble ∨ s.faState = .inFrame) ∧ s.accCount = 3 ∧
      s.faState = .inFrame ∧ s.byteCount = 0xFFFFFFFF ∧ s.bodyCount = 0xFFFFFFFF) :=
  ⟨⟨mid .preamble 3 0b010101 7 0, 9, by decide⟩, ⟨mid .inFrame 3 0b010101 0xFFFFFFFF 0xFFFFFFFF, 9, by decide⟩⟩

/-- A false carrier, an aligned and an unaligned frame, each open in one of the two states. -/
theorem witness_DeassertionClosesTheFrame :
    (∃ (s : State) (idx : Index), s.havePrev = true ∧ s.prevClk = false ∧ s.lastIdx < idx ∧
      (s.faState = .preamble ∨ s.faState = .inFrame) ∧ s.byteCount = 0) ∧
    (∃ (s : State) (idx : Index), s.havePrev = true ∧ s.prevClk = false ∧ s.lastIdx < idx ∧
      (s.faState = .preamble ∨ s.faState = .inFrame) ∧ s.byteCount ≠ 0 ∧ s.accCount = 0) ∧
    (∃ (s : State) (idx : Index), s.havePrev = true ∧ s.prevClk = false ∧ s.lastIdx < idx ∧
      (s.faState = .preamble ∨ s.faState = .inFrame) ∧ s.byteCount ≠ 0 ∧ s.accCount ≠ 0) :=
  ⟨⟨mid .preamble 1 1 0 0, 9, by decide⟩, ⟨mid .inFrame 0 0 20 12, 9, by decide⟩,
    ⟨mid .inFrame 2 0b001001 20 12, 9, by decide⟩⟩

/-- A FrameEnd of each status. -/
theorem witness_FrameEndStatusIsTheFirstMatchingRow :
    (∃ s t : State, exec .eos s = .next t ∧ .frameEnd 3 8 .truncated 1 1 0 0 false ∈ t.out) ∧
    (∃ s t : State, exec (.sample true false 0 9) s = .next t ∧ .frameEnd 3 9 .falseCarrier 1 1 0 0 false ∈ t.out) ∧
    (∃ s t : State, exec (.sample true false 0 9) s = .next t ∧ .frameEnd 3 9 .completeAligned 0 0 1 0 false ∈ t.out) ∧
    (∃ s t : State, exec (.sample true false 0 9) s = .next t ∧
      .frameEnd 3 9 .completeUnaligned 2 9 20 12 true ∈ t.out) :=
  ⟨⟨mid .preamble 1 1 0 0, _, rfl, by decide⟩, ⟨mid .preamble 1 1 0 0, _, rfl, by decide⟩,
    ⟨mid .preamble 0 0 1 0, _, rfl, by decide⟩, ⟨mid .inFrame 2 0b001001 20 12, _, rfl, by decide⟩⟩

/-- At the budget, one over it, under the unbounded budget, and a command that closes nothing. -/
theorem witness_MissingSfdExactlyAtCloseOverBudget :
    (∃ s t : State, exec (.sample true false 0 9) s = .next t ∧
      .frameEnd 3 9 .completeAligned 0 0 7 0 false ∈ t.out ∧ s.cfg.preambleBudget = 7) ∧
    (∃ s t : State, exec .eos s = .next t ∧
      .frameEnd 3 8 .truncated 0 0 8 0 false ∈ t.out ∧ s.cfg.preambleBudget = 7) ∧
    (∃ s t : State, exec .eos s = .next t ∧
      .frameEnd 3 8 .truncated 0 0 0xFFFFFFFF 0 false ∈ t.out ∧ s.cfg.preambleBudget = 0xFFFFFFFF) ∧
    (∃ s t : State, exec .nop s = .next t ∧ t.out.any Event.isFrameEnd = false) :=
  ⟨⟨mid .preamble 0 0 7 0, _, rfl, by decide⟩, ⟨mid .preamble 0 0 8 0, _, rfl, by decide⟩,
    ⟨{ mid .preamble 0 0 0xFFFFFFFF 0 with cfg := { Config.ref with preambleBudget := 0xFFFFFFFF } }, _, rfl, by decide⟩,
    ⟨quiet, _, rfl, by decide⟩⟩

/-- One under the threshold, at it, with the check off, and a command that closes nothing. -/
theorem witness_RuntExactlyAtShortCompleteClose :
    (∃ s t : State, exec (.sample true false 0 9) s = .next t ∧
      .frameEnd 3 9 .completeAligned 0 0 71 63 true ∈ t.out ∧ s.cfg.runtMinBytes = 64) ∧
    (∃ s t : State, exec (.sample true false 0 9) s = .next t ∧
      .frameEnd 3 9 .completeAligned 0 0 72 64 true ∈ t.out ∧ s.cfg.runtMinBytes = 64) ∧
    (∃ s t : State, exec (.sample true false 0 9) s = .next t ∧
      .frameEnd 3 9 .completeAligned 0 0 8 0 true ∈ t.out ∧ s.cfg.runtMinBytes = 0) ∧
    (∃ s t : State, exec .nop s = .next t ∧ t.out.any Event.isFrameEnd = false) :=
  ⟨⟨mid .inFrame 0 0 71 63, _, rfl, by decide⟩, ⟨mid .inFrame 0 0 72 64, _, rfl, by decide⟩,
    ⟨{ mid .inFrame 0 0 8 0 with cfg := { Config.ref with runtMinBytes := 0 } }, _, rfl, by decide⟩,
    ⟨quiet, _, rfl, by decide⟩⟩

theorem witness_StatusMarkerRepeatsTheStatus :
    (∃ s t : State, exec .eos s = .next t ∧ .frameEnd 3 8 .truncated 1 1 0 0 false ∈ t.out) ∧
    (∃ s t : State, exec (.sample true false 0 9) s = .next t ∧ .frameEnd 3 9 .falseCarrier 1 1 0 0 false ∈ t.out) ∧
    (∃ s t : State, exec (.sample true false 0 9) s = .next t ∧
      .frameEnd 3 9 .completeUnaligned 2 9 20 12 true ∈ t.out) :=
  ⟨⟨mid .preamble 1 1 0 0, _, rfl, by decide⟩, ⟨mid .preamble 1 1 0 0, _, rfl, by decide⟩,
    ⟨mid .inFrame 2 0b001001 20 12, _, rfl, by decide⟩⟩

/-- Six events from one command: an implausible, closing edge of an unaligned runt frame. -/
theorem witness_EventsInCanonicalOrder :
    ∃ s t : State, exec (.sample true false 0 99) s = .next t ∧ t.out.length = 6 :=
  ⟨mid .inFrame 2 0b001001 20 12, _, rfl, by decide⟩

theorem witness_AtMostSixEventsOnSixLanes :
    ∃ s t : State, exec (.sample true false 0 99) s = .next t ∧ t.out.length = 6 ∧ t.out[5]?.isSome = true :=
  ⟨mid .inFrame 2 0b001001 20 12, _, rfl, by decide⟩

/-- A state with a byte and two dibits buffered meets the invariant. -/
theorem mid_meets_invariant : FrameInv (mid .inFrame 2 0b001001 20 12) where
  notClosing := by decide
  idleClear := by decide
  preambleBody := by decide
  accHigh := by decide
  edgeSampled := by decide
  openAfterEdge := by decide
  accRange := by decide
  holdsDibit := by decide
  bodyWithin := by decide
  inFrameByte := by decide

/-- A frame of one dibit in PREAMBLE meets it. -/
theorem young_meets_invariant : FrameInv (mid .preamble 1 0b000001 0 0) where
  notClosing := by decide
  idleClear := by decide
  preambleBody := by decide
  accHigh := by decide
  edgeSampled := by decide
  openAfterEdge := by decide
  accRange := by decide
  holdsDibit := by decide
  bodyWithin := by decide
  inFrameByte := by decide

/-- A DRIBBLE, a FALSE_CARRIER and a ByteDecoded event each occur. -/
theorem witness_EmittedEventsAreWellFormed :
    (∃ s t : State, FrameInv s ∧ exec (.sample true false 0 9) s = .next t ∧ .errorMarker 3 9 .dribble 2 ∈ t.out) ∧
    (∃ s t : State, FrameInv s ∧ exec (.sample true false 0 9) s = .next t ∧
      .errorMarker 3 9 .falseCarrier 1 ∈ t.out) ∧
    (∃ s t : State, FrameInv s ∧ exec (.sample true true 0 9) s = .next t) :=
  ⟨⟨_, _, mid_meets_invariant, rfl, by decide⟩, ⟨_, _, young_meets_invariant, rfl, by decide⟩,
    ⟨_, _, mid_meets_invariant, rfl⟩⟩

theorem witness_EventCountsPerCommand :
    (∃ s t : State, exec .reset s = .next t) ∧ (∃ s t : State, exec .nop s = .next t) ∧
    (∃ s t : State, exec (.sample true true 0 9) s = .next t ∧ s.havePrev = true ∧ s.prevClk = false) ∧
    (∃ s t : State, exec .eos s = .next t ∧ s.faState = .idle) ∧
    (∃ s t : State, exec .eos s = .next t ∧ s.faState ≠ .idle) :=
  ⟨⟨quiet, _, rfl⟩, ⟨quiet, _, rfl⟩, ⟨quiet, _, rfl, by decide⟩, ⟨quiet, _, rfl, rfl⟩,
    ⟨mid .inFrame 2 0b001001 20 12, _, rfl, by decide⟩⟩

/-- A frame opens, a frame ends in each of three ways, IN_FRAME is entered and left. -/
theorem witness_FrameStateChangesOnlyAsStated :
    (∃ s t : State, exec (.sample true true 0 9) s = .next t ∧ s.frameOpen = false ∧ t.frameOpen = true) ∧
    (∃ s t : State, exec (.sample true false 0 9) s = .next t ∧ s.frameOpen = true ∧ t.frameOpen = false) ∧
    (∃ s t : State, exec .eos s = .next t ∧ s.frameOpen = true ∧ t.frameOpen = false) ∧
    (∃ s t : State, exec .reset s = .next t ∧ s.frameOpen = true ∧ t.frameOpen = false) ∧
    (∃ s t : State, exec (.sample true true 0b11 9) s = .next t ∧ s.faState ≠ .inFrame ∧ t.faState = .inFrame) ∧
    (∃ s t : State, exec (.sample true false 0 9) s = .next t ∧ s.faState = .inFrame ∧ t.faState ≠ .inFrame) :=
  ⟨⟨quiet, _, rfl, by decide⟩, ⟨mid .preamble 1 1 0 0, _, rfl, by decide⟩, ⟨mid .preamble 1 1 0 0, _, rfl, by decide⟩,
    ⟨mid .preamble 1 1 0 0, _, rfl, by decide⟩, ⟨mid .preamble 3 0b010101 7 0, _, rfl, by decide⟩,
    ⟨mid .inFrame 0 0 20 12, _, rfl, by decide⟩⟩

theorem witness_CommandsLeaveConfigurationAndInput :
    ∃ s t : State, exec (.sample true false 0 9) s = .next t ∧ s.input ≠ [] :=
  ⟨{ quiet with input := [PortCycle.idle Config.ref] }, _, rfl, by decide⟩

/-- The first and the last word of each row's range. -/
theorem witness_FirstMatchingRowDecodes :
    (∀ w ∈ [0x40, 0x7F], (w : CommandWord) &&& 0x40 = 0x40) ∧ (∀ w ∈ [0x00, 0x1F], (w : CommandWord) &&& 0x60 = 0x00) ∧
    (∀ w ∈ [0x20, 0x2F], (w : CommandWord) &&& 0x70 = 0x20) ∧ (∀ w ∈ [0x30, 0x3F], (w : CommandWord) &&& 0x70 = 0x30) := by
  decide

theorem witness_IgnoredBitsChangeNothing :
    (∃ w v : CommandWord, w ≠ v ∧ w &&& 0x40 = 0x40 ∧ v &&& 0x40 = 0x40) ∧
    (∃ w v : CommandWord, w ≠ v ∧ w &&& 0x60 = 0 ∧ v &&& 0x60 = 0) ∧
    (∃ w v : CommandWord, w ≠ v ∧ w &&& 0x70 = 0x30 ∧ v &&& 0x70 = 0x30) :=
  ⟨⟨0x40, 0x7F, by decide⟩, ⟨0x00, 0x1F, by decide⟩, ⟨0x30, 0x3F, by decide⟩⟩

theorem witness_EventWordRoundTrip : ∃ e : Event, e.emittable = true :=
  ⟨.frameEnd 1 429 .completeUnaligned 2 0b001101 53 45 true, by decide⟩

/-- A reserved type, and the reserved codes next to the assigned ones. -/
theorem witness_ReservedEventCodesAreNoEvents :
    (∃ ev : EventWord, 6 ≤ (ev.extractLsb' 0 4 : BitVec 4)) ∧
    (∃ ev : EventWord, (ev.extractLsb' 0 4 : BitVec 4) = 4 ∧ (ev.extractLsb' 132 3 : BitVec 3) = 0) ∧
    (∃ ev : EventWord, (ev.extractLsb' 0 4 : BitVec 4) = 4 ∧ 5 ≤ (ev.extractLsb' 132 3 : BitVec 3)) ∧
    (∃ ev : EventWord, (ev.extractLsb' 0 4 : BitVec 4) = 5 ∧ (ev.extractLsb' 132 4 : BitVec 4) = 0) ∧
    (∃ ev : EventWord, (ev.extractLsb' 0 4 : BitVec 4) = 5 ∧ 7 ≤ (ev.extractLsb' 132 4 : BitVec 4)) :=
  ⟨⟨0#256 ++ 6#4, by decide⟩, ⟨(Event.frameEnd 0 0 .inProgress 0 0 0 0 false).encode, by decide⟩,
    ⟨0#125 ++ 5#3 ++ 0#128 ++ 4#4, by decide⟩, ⟨0#256 ++ 5#4, by decide⟩,
    ⟨(Event.errorMarker 0 0 .collisionExtension 0).encode, by decide⟩⟩

/-- Under a held configuration, and under one that changes with `rst = 1`. -/
theorem witness_StepRunsThePresentedCommand :
    (∃ (s : State) (c : PortCycle) (rest : List PortCycle), s.input = c :: rest ∧ c.rst = false ∧ c.cfg = s.cfg ∧
      decode c.word c.inIdx = .sample true true 0b01 7) ∧
    (∃ (s : State) (c : PortCycle) (rest : List PortCycle), s.input = c :: rest ∧ c.rst = true ∧ c.cfg ≠ s.cfg ∧
      decode c.word c.inIdx = .reset) :=
  ⟨⟨{ State.reset with input := [⟨false, 0b101101, 7, Config.ref⟩] }, _, _, rfl, by decide⟩,
    ⟨{ State.reset with input := [⟨true, 0, 0, { Config.ref with runtMinBytes := 0 }⟩] }, _, _, rfl, by decide⟩⟩

theorem witness_IdlePortIsANop : ∃ s : State, s.input = [] ∧ s.out ≠ [] :=
  ⟨{ quiet with out := [.clockEdge 7] }, rfl, by decide⟩

/-- Both sides: a changed configuration with `rst = 0`, and the same change with `rst = 1`. -/
theorem witness_ConfigurationChangeRefused :
    (∃ (s : State) (c : PortCycle) (rest : List PortCycle), s.input = c :: rest ∧ c.rst = false ∧ c.cfg ≠ s.cfg) ∧
    (∃ (s : State) (c : PortCycle) (rest : List PortCycle), s.input = c :: rest ∧ c.rst = true ∧ c.cfg ≠ s.cfg) :=
  ⟨⟨{ State.reset with input := [⟨false, 0, 0, { Config.ref with runtMinBytes := 0 }⟩] }, _, _, rfl, by decide⟩,
    ⟨{ State.reset with input := [⟨true, 0, 0, { Config.ref with runtMinBytes := 0 }⟩] }, _, _, rfl, by decide⟩⟩

theorem witness_StepKeepsFrameInvariant : ∃ s t : State, FrameInv s ∧ step s = .next t :=
  ⟨_, _, mid_meets_invariant, rfl⟩

/-- One period with CTRL = 1: a frame of one dibit (vector E4's shape). -/
def opening : List Instr := cyc 0 true 0b01

theorem witness_RunInvariantsOneToSeven :
    ∃ (t : State) (evs : List Event), runCommands State.reset opening = .next (t, evs) ∧
      t.byteCount < 0xFFFFFFFF ∧ t.frameOpen = true :=
  ⟨_, _, rfl, by decide⟩

theorem witness_FrameOpenIsCarrierOfLastEdge :
    ∃ (t u : State) (evs : List Event), runCommands State.reset (opening ++ [.sample false true 0 2]) = .next (t, evs) ∧
      t.havePrev = true ∧ t.prevClk = false ∧ exec (.sample true false 0 3) t = .next u :=
  ⟨_, _, _, rfl, rfl, rfl, rfl⟩

theorem witness_ClockEdgesCountTransitions :
    ∃ (t : State) (evs : List Event), runCommands State.reset opening = .next (t, evs) ∧ clockTransitions none opening = 1 :=
  ⟨_, _, rfl, by decide⟩

/-- A whole frame: opened, closed as a false carrier (vector K1a), and the stream ended. -/
theorem witness_FramesNeverNest :
    ∃ (s t : State) (evs : List Event), s.faState ≠ .closing ∧ noReset (opening ++ idle 1) = true ∧
      runCommands s (opening ++ idle 1) = .next (t, evs) ∧ evs.any Event.isFrameEnd = true :=
  ⟨State.reset, _, _, by decide, by decide, rfl, by decide⟩

theorem witness_FrameEventsAgree :
    (∃ (s t : State) (evs : List Event), s.faState = .idle ∧ noReset (txb 0 true 0x55) = true ∧
      runCommands s (txb 0 true 0x55) = .next (t, evs) ∧ t.frameOpen = true ∧ evs.any Event.isByteDecoded = true) ∧
    (∃ (s t : State) (evs : List Event), s.faState = .idle ∧ noReset (opening ++ idle 1) = true ∧
      runCommands s (opening ++ idle 1) = .next (t, evs) ∧ t.frameOpen = false) :=
  ⟨⟨State.reset, _, _, rfl, by decide, rfl, by decide⟩, ⟨State.reset, _, _, rfl, by decide, rfl, by decide⟩⟩

/-- A finished run, one whose RESET abandons a frame although it ends with EOS (vector X6's shape), and one without EOS. -/
theorem witness_FinishedRunClosesEveryFrame :
    (∃ (s t : State) (evs : List Event), s.faState = .idle ∧ runCommands s (opening ++ [.eos]) = .next (t, evs) ∧
      finishedRun s (opening ++ [.eos]) = true ∧ evs.any Event.isFrameStart = true) ∧
    (∃ (s t : State) (evs : List Event), s.faState = .idle ∧
      runCommands s (opening ++ [.reset, .eos]) = .next (t, evs) ∧ endsWithEos (opening ++ [.reset, .eos]) = true ∧
      finishedRun s (opening ++ [.reset, .eos]) = false) ∧
    (∃ (s t : State) (evs : List Event), s.faState = .idle ∧ runCommands s (opening ++ idle 1) = .next (t, evs) ∧
      finishedRun s (opening ++ idle 1) = false) :=
  ⟨⟨State.reset, _, _, rfl, rfl, by decide⟩, ⟨State.reset, _, _, rfl, rfl, by decide⟩,
    ⟨State.reset, _, _, rfl, rfl, by decide⟩⟩

/-- One dibit, four dibits and five: a false carrier, an aligned frame, an unaligned one. -/
theorem witness_DibitCountPredictsStatus :
    (∃ (t : State) (evs : List Event), runCommands State.reset (opening ++ [.sample false false 0 2]) = .next (t, evs) ∧
      t.frameOpen = true ∧ t.byteCount < 0xFFFFFFFF ∧ t.prevClk = false ∧ t.lastIdx < 3 ∧
      openFrameDibits none 0 (opening ++ [.sample false false 0 2]) = 1) ∧
    (∃ (t : State) (evs : List Event),
      runCommands State.reset (txb 0 true 0x55 ++ [.sample false false 0 8]) = .next (t, evs) ∧
      t.frameOpen = true ∧ t.byteCount < 0xFFFFFFFF ∧ t.prevClk = false ∧ t.lastIdx < 9 ∧
      openFrameDibits none 0 (txb 0 true 0x55 ++ [.sample false false 0 8]) = 4) ∧
    (∃ (t : State) (evs : List Event),
      runCommands State.reset (txb 0 true 0x55 ++ cyc 4 true 0b01 ++ [.sample false false 0 10]) = .next (t, evs) ∧
      t.frameOpen = true ∧ t.byteCount < 0xFFFFFFFF ∧ t.prevClk = false ∧ t.lastIdx < 11 ∧
      openFrameDibits none 0 (txb 0 true 0x55 ++ cyc 4 true 0b01 ++ [.sample false false 0 10]) = 5) :=
  ⟨⟨_, _, rfl, by decide⟩, ⟨_, _, rfl, by decide⟩, ⟨_, _, rfl, by decide⟩⟩

/-- Increasing indices, and equal ones (vector E6). -/
theorem witness_RunCompletesExactlyWhenIndicesIncrease :
    (∃ (s : State) (p : List Instr), s.faState ≠ .closing ∧ indicesIncrease s.lastIndex p = true ∧ p ≠ []) ∧
    (∃ (s : State) (p : List Instr), s.faState ≠ .closing ∧ indicesIncrease s.lastIndex p = false) :=
  ⟨⟨quiet, [.sample true true 0 9], by decide⟩, ⟨quiet, [.sample true true 0 8], by decide⟩⟩

theorem witness_EventsDetermineFrameRegisters :
    ∃ (t u : State) (evs : List Event), withinStream opening = true ∧ withinStream (.nop :: opening) = true ∧
      runCommands State.reset opening = .next (t, evs) ∧ runCommands State.reset (.nop :: opening) = .next (u, evs) ∧
      evs ≠ [] :=
  ⟨_, _, _, by decide, by decide, rfl, rfl, by decide⟩

theorem witness_FourDibitsMakeOneByte :
    ∃ (s : State) (i0 j1 i1 j2 i2 j3 i3 : Index),
      (s.faState = .preamble ∨ s.faState = .inFrame) ∧ s.accCount = 0 ∧ s.accBits = 0 ∧
      s.havePrev = true ∧ s.prevClk = false ∧
      s.lastIdx < i0 ∧ i0 < j1 ∧ j1 < i1 ∧ i1 < j2 ∧ j2 < i2 ∧ i2 < j3 ∧ j3 < i3 :=
  ⟨mid .inFrame 0 0 20 12, 9, 10, 11, 12, 13, 14, 15, by decide⟩

/-- A clock stuck low under a moving control line (vector E5). -/
theorem witness_StuckClockYieldsNothing :
    ∃ (s t : State) (evs : List Event),
      runCommands s [.sample false true 0b01 0, .sample false true 0b01 1] = .next (t, evs) ∧
      clockTransitions s.lastClk [.sample false true 0b01 0, .sample false true 0b01 1] = 0 ∧
      .eos ∉ [Instr.sample false true 0b01 0, .sample false true 0b01 1] :=
  ⟨State.reset, _, _, rfl, by decide, by decide⟩

theorem witness_DibitConsumedBeforeDeassertion :
    ∃ (s : State) (i0 j1 i1 j2 i2 : Index),
      (s.faState = .preamble ∨ s.faState = .inFrame) ∧ s.accCount = 3 ∧ s.havePrev = true ∧ s.prevClk = false ∧
      s.lastIdx < i0 ∧ i0 < j1 ∧ j1 < i1 ∧ i1 < j2 ∧ j2 < i2 :=
  ⟨mid .preamble 3 0b010101 7 0, 9, 10, 11, 12, 13, by decide⟩

/-- With no frame open, from the reset state (n = 0), and at the last period whose indices fit. -/
theorem witness_TxbSendsItsByte :
    (∃ (s : State) (n : Nat), FrameInv s ∧ s.accCount = 0 ∧ 2 * (n + 3) + 1 < 2 ^ 64 ∧
      (s.havePrev = true → s.lastIdx.toNat < 2 * n) ∧ s.frameOpen = false ∧ n = 0) ∧
    (∃ (s : State) (n : Nat), FrameInv s ∧ s.accCount = 0 ∧ 2 * (n + 3) + 1 < 2 ^ 64 ∧
      (s.havePrev = true → s.lastIdx.toNat < 2 * n) ∧ s.frameOpen = true ∧ 2 * (n + 3) + 1 = 2 ^ 64 - 1) :=
  ⟨⟨State.reset, 0,
      { notClosing := by decide, idleClear := by decide, preambleBody := by decide, accHigh := by decide
        edgeSampled := by decide, openAfterEdge := by decide, accRange := by decide, holdsDibit := by decide
        bodyWithin := by decide, inFrameByte := by decide },
      by decide, by decide, by decide, by decide, rfl⟩,
    ⟨mid .inFrame 0 0 20 12, 2 ^ 63 - 4,
      { notClosing := by decide, idleClear := by decide, preambleBody := by decide, accHigh := by decide
        edgeSampled := by decide, openAfterEdge := by decide, accRange := by decide, holdsDibit := by decide
        bodyWithin := by decide, inFrameByte := by decide },
      by decide, by decide, by decide, by decide, by decide⟩⟩

end Sys2Proof.Tests
end

/-! SUPPORT. The invariants I1 to I7 of 10_state.md R33 along a run of commands. -/

namespace Sys2Proof.Machine

/-- The reset registers meet I1 to I6. -/
theorem inv_of_atReset {s : State} (h : AtReset s) : Inv s where
  notClosing := by simp [h.faState]
  idleClear _ := ⟨h.accCount, h.accBits, h.accFirstIdx, h.frameStartIdx, h.byteCount, h.bodyCount⟩
  preambleBody _ := h.bodyCount
  accHigh := by simp [h.accBits]
  edgeSampled he := by simp [h.haveEdge] at he
  openAfterEdge ho := by simp [State.frameOpen, h.faState] at ho

/-- The reset state's registers, whatever the configuration, the host's cycles and the port. -/
theorem atReset_reset (cfg : Config) (input : List PortCycle) (out : List Event) :
    AtReset { State.reset with cfg := cfg, input := input, out := out } := by
  constructor <;> rfl

/-- Buffering one more dibit keeps I4: the entries above the new count stay 0. -/
theorem setDibit_high {bits : BitVec 6} {k : BitVec 2} (dibit : Dibit) (hk : k ≠ 3)
    (h : bits >>> (2 * k.toNat) = 0) : setDibit bits k dibit >>> (2 * (k + 1).toNat) = 0 := by
  have hk1 : (k + 1).toNat = k.toNat + 1 := by bv_omega
  refine BitVec.eq_of_getLsbD_eq fun i _ => ?_
  have hbit : bits.getLsbD (2 * k.toNat + (2 + i)) = false := by
    have := congrArg (fun b : BitVec 6 => b.getLsbD (2 + i)) h
    simpa using this
  have hpos : 2 * (k.toNat + 1) + i = 2 * k.toNat + (2 + i) := by omega
  rw [hk1, BitVec.getLsbD_ushiftRight, hpos]
  simp [setDibit, hbit]

/-- An accepted SAMPLE in a stream whose last edge was sampled is above that edge. -/
theorem Inv.edge_lt {s : State} {idx : Index} (h : Inv s) (hi : s.indexRefused idx = false)
    (he : s.haveEdge = true) : s.lastEdgeIdx < idx := by
  obtain ⟨hp, hle⟩ := h.edgeSampled he
  exact Nat.lt_of_le_of_lt hle (State.lt_of_accepted hi hp)

/-- I6 at a further edge of an open frame: the frame's start stays at or before the last edge. -/
theorem Inv.start_le {s : State} {idx : Index} (h : Inv s) (hi : s.indexRefused idx = false)
    (hf : s.faState = .preamble ∨ s.faState = .inFrame) : s.frameStartIdx ≤ idx := by
  obtain ⟨he, hle⟩ := h.openAfterEdge (State.frameOpen_of hf)
  exact BitVec.le_of_lt (Nat.lt_of_le_of_lt hle (h.edge_lt hi he))

/-- Every accepted command keeps I1 to I6. -/
theorem Effect.keeps_inv {s t : State} {i : Instr} (h : Effect s i t) (hs : Inv s) : Inv t := by
  cases h with
  | reset => exact inv_of_atReset (atReset_reset _ _ _)
  | nop => exact { hs with }
  | eosIdle hf => exact inv_of_atReset (atReset_reset _ _ _)
  | eosOpen hf => exact inv_of_atReset (atReset_reset _ _ _)
  | level clk ctrl dibit idx hi he =>
    exact { hs with edgeSampled := fun he => ⟨rfl, BitVec.le_of_lt (hs.edge_lt hi he)⟩ }
  | quiet clk dibit idx hi he hf =>
    exact { hs with
      edgeSampled := fun _ => ⟨rfl, BitVec.le_refl idx⟩
      openAfterEdge := fun ho => absurd ho (by simp [State.frameOpen, hf]) }
  | opened clk dibit idx hi he hf =>
    exact {
      notClosing := FaState.noConfusion
      idleClear := FaState.noConfusion
      preambleBody := fun _ => rfl
      accHigh := setDibit_high dibit (by decide) (by decide)
      edgeSampled := fun _ => ⟨rfl, BitVec.le_refl idx⟩
      openAfterEdge := fun _ => ⟨rfl, BitVec.le_refl idx⟩ }
  | pushed clk dibit idx hi he hf ha =>
    exact { hs with
      idleClear := fun hidle => absurd hf (by simp [show s.faState = .idle from hidle])
      accHigh := setDibit_high dibit ha hs.accHigh
      edgeSampled := fun _ => ⟨rfl, BitVec.le_refl idx⟩
      openAfterEdge := fun _ => ⟨rfl, hs.start_le hi hf⟩ }
  | byte clk dibit idx hi he hf ha =>
    exact {
      notClosing := by
        rcases hf with hf | hf <;> simp only [hf] <;> split <;> decide
      idleClear := fun hidle => absurd hidle (bne_iff_ne.1 (byte_keeps_open hf _))
      preambleBody := by
        rcases hf with hf | hf
        · simpa [hf] using fun _ => hs.preambleBody hf
        · simp [hf]
      accHigh := by simp
      edgeSampled := fun _ => ⟨rfl, BitVec.le_refl idx⟩
      openAfterEdge := fun _ => ⟨rfl, hs.start_le hi hf⟩ }
  | closed clk dibit idx hi he hf =>
    exact {
      notClosing := FaState.noConfusion
      idleClear := fun _ => ⟨rfl, rfl, rfl, rfl, rfl, rfl⟩
      preambleBody := FaState.noConfusion
      accHigh := by simp
      edgeSampled := fun _ => ⟨rfl, BitVec.le_refl idx⟩
      openAfterEdge := fun ho => nomatch ho }

/-- The dibits of the open frame after one more command, from the dibits before it: the step of `openFrameDibits`. -/
def State.dibitsAfter (s : State) (n : Nat) : Instr → Nat
  | .reset => 0
  | .nop => n
  | .sample clk ctrl _ _ => if s.isEdge clk then (if ctrl then n + 1 else 0) else n
  | .eos => 0

/-- An accepted SAMPLE's REF_CLK is the stream's last one. -/
theorem Effect.lastClk_sample {s t : State} {clk ctrl : Bool} {dibit : Dibit} {idx : Index}
    (h : Effect s (.sample clk ctrl dibit idx) t) : t.lastClk = some clk := by
  cases h <;> rfl

/-- Counting the open frame's dibits over one accepted command. -/
theorem openFrameDibits_cons {s t : State} {i : Instr} (h : Effect s i t) (n : Nat) (p : List Instr) :
    openFrameDibits s.lastClk n (i :: p) = openFrameDibits t.lastClk (s.dibitsAfter n i) p := by
  cases i with
  | reset => cases h; rfl
  | nop => cases h; rfl
  | sample clk ctrl dibit idx =>
    simp only [openFrameDibits, State.dibitsAfter, State.lastClk_edge, h.lastClk_sample]
  | eos => cases h <;> rfl

/-- I7: `n` dibits are what the frame registers show, while `byte_count` is not saturated. -/
def State.ShowsDibits (s : State) (n : Nat) : Prop :=
  s.byteCount < 0xFFFFFFFF → n = 4 * s.byteCount.toNat + s.accCount.toNat

/-- Registers cleared by a reset or a close show no dibit. -/
theorem showsDibits_zero {s : State} (hb : s.byteCount = 0) (ha : s.accCount = 0) : s.ShowsDibits 0 := by
  intro _
  simp [hb, ha]

/-- An unsaturated counter counted up from an unsaturated one, by exactly one. -/
theorem satInc_below {c : Count} (h : satInc c < 0xFFFFFFFF) :
    c < 0xFFFFFFFF ∧ (satInc c).toNat = c.toNat + 1 := by
  unfold satInc at *
  split at h
  · rename_i hc
    exact ⟨hc, by simp only [if_pos hc]; bv_omega⟩
  · exact absurd h ‹_›

/-- Every accepted command keeps I7. -/
theorem Effect.keeps_showsDibits {s t : State} {i : Instr} {n : Nat} (h : Effect s i t) (hs : Inv s)
    (hn : s.ShowsDibits n) : t.ShowsDibits (s.dibitsAfter n i) := by
  cases h with
  | reset => exact showsDibits_zero rfl rfl
  | nop => exact hn
  | eosIdle hf => exact showsDibits_zero rfl rfl
  | eosOpen hf => exact showsDibits_zero rfl rfl
  | level clk ctrl dibit idx hi he =>
    simp only [State.dibitsAfter, he]
    exact hn
  | quiet clk dibit idx hi he hf =>
    obtain ⟨ha, -, -, -, hb, -⟩ := hs.idleClear hf
    simp only [State.dibitsAfter, he]
    exact showsDibits_zero hb ha
  | opened clk dibit idx hi he hf =>
    obtain ⟨ha, -, -, -, hb, -⟩ := hs.idleClear hf
    have hn0 : n = 0 := by simpa [State.ShowsDibits, hb, ha] using hn
    simp [State.ShowsDibits, State.dibitsAfter, he, hn0]
  | pushed clk dibit idx hi he hf ha =>
    intro hlt
    have hn := hn hlt
    have hk : (s.accCount + 1).toNat = s.accCount.toNat + 1 := by bv_omega
    simp only [State.dibitsAfter, he, if_true, hk]
    omega
  | byte clk dibit idx hi he hf ha =>
    intro hlt
    obtain ⟨hb, hsat⟩ := satInc_below hlt
    have hn := hn hb
    have hfull : s.accCount.toNat = 3 := by simp [ha]
    have hempty : (0 : BitVec 2).toNat = 0 := rfl
    simp only [State.dibitsAfter, he, if_true, hsat, hempty]
    omega
  | closed clk dibit idx hi he hf =>
    simp only [State.dibitsAfter, he]
    exact showsDibits_zero rfl rfl

/-- A completed run keeps I1 to I7 from any state that meets them. -/
theorem runCommands_keeps_inv {p : List Instr} {s t : State} {evs : List Event}
    (h : runCommands s p = .next (t, evs)) :
    Inv s → ∀ n, s.ShowsDibits n → Inv t ∧ t.ShowsDibits (openFrameDibits s.lastClk n p) := by
  refine runCommands_induction
    (motive := fun s p t _ => Inv s → ∀ n, s.ShowsDibits n →
      Inv t ∧ t.ShowsDibits (openFrameDibits s.lastClk n p)) ?nil ?cons p s t evs h
  case nil => exact fun s hs n hn => ⟨hs, hn⟩
  case cons =>
    intro s i u p t after he _ ih hs n hn
    rw [openFrameDibits_cons he]
    exact ih (he.keeps_inv hs) _ (he.keeps_showsDibits hs hn)

/-- Settles O46, by the invariant I1 to I7 carried over each command from the reset registers. -/
theorem runInvariantsOneToSeven : Obligations.RunInvariantsOneToSeven := by
  unfold Obligations.RunInvariantsOneToSeven
  intro cfg p t evs h
  exact runCommands_keeps_inv h (inv_of_atReset (atReset_reset cfg [] [])) 0 (showsDibits_zero rfl rfl)

end Sys2Proof.Machine

/-! SUPPORT. Two states that differ only in registers no rule reads (10_state.md R35) answer every command alike. -/

namespace Sys2Proof.Machine

/-- Two states agree on what a rule may read: the unguarded registers and the configuration, and each of R35's five registers under the guard of its reads. The end of the stream reads `last_idx` for an open frame (44_stream_control.md R202). -/
structure SameReads (s s' : State) : Prop where
  havePrev : s'.havePrev = s.havePrev
  haveEdge : s'.haveEdge = s.haveEdge
  faState : s'.faState = s.faState
  accCount : s'.accCount = s.accCount
  accBits : s'.accBits = s.accBits
  byteCount : s'.byteCount = s.byteCount
  bodyCount : s'.bodyCount = s.bodyCount
  cfg : s'.cfg = s.cfg
  afterSample : s.havePrev = true → s'.prevClk = s.prevClk ∧ s'.lastIdx = s.lastIdx
  afterEdge : s.haveEdge = true → s'.lastEdgeIdx = s.lastEdgeIdx
  buffered : s.accCount ≠ 0 → s'.accFirstIdx = s.accFirstIdx
  inOpenFrame : s.faState ≠ .idle → s'.frameStartIdx = s.frameStartIdx ∧ s'.lastIdx = s.lastIdx

namespace SameReads

variable {s s' : State}

/-- The index test of R101 reads `last_idx` under `have_prev`. -/
theorem indexRefused (h : SameReads s s') (idx : Index) : s'.indexRefused idx = s.indexRefused idx := by
  cases hp : s.havePrev with
  | false => simp [State.indexRefused, h.havePrev, hp]
  | true => simp [State.indexRefused, h.havePrev, hp, (h.afterSample hp).2]

/-- The edge test of R102 reads `prev_clk` under `have_prev`. -/
theorem isEdge (h : SameReads s s') (clk : Bool) : s'.isEdge clk = s.isEdge clk := by
  cases hp : s.havePrev with
  | false => simp [State.isEdge, h.havePrev, hp]
  | true => simp [State.isEdge, h.havePrev, hp, (h.afterSample hp).1]

/-- The spacing check of R185 reads `last_edge_idx` under `have_edge`. -/
theorem edgeEvents (h : SameReads s s') (idx : Index) (ctrl : Bool) (dibit : Dibit) :
    edgeEvents s' idx ctrl dibit = edgeEvents s idx ctrl dibit := by
  cases he : s.haveEdge with
  | false => simp [Machine.edgeEvents, h.haveEdge, he]
  | true => simp [Machine.edgeEvents, h.haveEdge, he, h.cfg, h.afterEdge he]

/-- A close by deassertion reads `frame_start_idx` of an open frame. -/
theorem deassertEvents (h : SameReads s s') (hf : s.faState ≠ .idle) (idx : Index) :
    deassertEvents s' idx = deassertEvents s idx := by
  simp only [Machine.deassertEvents, (h.inOpenFrame hf).1, h.accCount, h.accBits, h.byteCount, h.bodyCount,
    h.faState, h.cfg]

/-- A close at the end of the stream reads `frame_start_idx` and `last_idx` of an open frame. -/
theorem truncatedEvents (h : SameReads s s') (hf : s.faState ≠ .idle) :
    truncatedEvents s' = truncatedEvents s := by
  simp only [Machine.truncatedEvents, (h.inOpenFrame hf).1, (h.inOpenFrame hf).2, h.accCount, h.accBits, h.byteCount,
    h.bodyCount, h.faState, h.cfg]

end SameReads

/-- A state not in IDLE, as an open frame's cases give it. -/
theorem State.not_idle_of {s : State} (hf : s.faState = .preamble ∨ s.faState = .inFrame) :
    s.faState ≠ .idle := by
  rcases hf with hf | hf <;> simp [hf]

/-- The reset registers under one configuration agree, whatever the port and the host's cycles. -/
theorem sameReads_reset {cfg cfg' : Config} (h : cfg' = cfg) (input input' : List PortCycle) (out out' : List Event) :
    SameReads { State.reset with cfg := cfg, input := input, out := out }
      { State.reset with cfg := cfg', input := input', out := out' } := by
  subst h
  constructor <;> simp

/-- An accepted command has, in a state that agrees, the same events, and leads to a state that agrees again. -/
theorem Effect.of_sameReads {s s' t : State} {i : Instr} (he : Effect s i t) (h : SameReads s s') :
    ∃ t', Effect s' i t' ∧ t'.out = t.out ∧ SameReads t t' := by
  cases he with
  | reset => exact ⟨_, .reset, rfl, sameReads_reset h.cfg _ _ _ _⟩
  | nop => exact ⟨_, .nop, rfl, { h with }⟩
  | eosIdle hf => exact ⟨_, .eosIdle (h.faState.trans hf), rfl, sameReads_reset h.cfg _ _ _ _⟩
  | eosOpen hf =>
    exact ⟨_, .eosOpen (h.faState ▸ hf), h.truncatedEvents hf, sameReads_reset h.cfg _ _ _ _⟩
  | level clk ctrl dibit idx hi he =>
    exact ⟨_, .level clk ctrl dibit idx ((h.indexRefused idx).trans hi) ((h.isEdge clk).trans he), rfl,
      { h with
        havePrev := rfl
        afterSample := fun _ => ⟨rfl, rfl⟩
        inOpenFrame := fun hf => ⟨(h.inOpenFrame hf).1, rfl⟩ }⟩
  | quiet clk dibit idx hi he hf =>
    exact ⟨_, .quiet clk dibit idx ((h.indexRefused idx).trans hi) ((h.isEdge clk).trans he) (h.faState.trans hf),
      h.edgeEvents idx false dibit,
      { h with
        havePrev := rfl
        haveEdge := rfl
        afterSample := fun _ => ⟨rfl, rfl⟩
        afterEdge := fun _ => rfl
        inOpenFrame := fun ho => absurd hf ho }⟩
  | opened clk dibit idx hi he hf =>
    exact ⟨_, .opened clk dibit idx ((h.indexRefused idx).trans hi) ((h.isEdge clk).trans he) (h.faState.trans hf),
      congrArg (· ++ _) (h.edgeEvents idx true dibit), by constructor <;> simp [h.cfg]⟩
  | pushed clk dibit idx hi he hf ha =>
    refine ⟨_, .pushed clk dibit idx ((h.indexRefused idx).trans hi) ((h.isEdge clk).trans he)
      (by rwa [h.faState]) (by rwa [h.accCount]), h.edgeEvents idx true dibit, ?_⟩
    obtain ⟨hstart, -⟩ := h.inOpenFrame (State.not_idle_of hf)
    exact { h with
      havePrev := rfl
      haveEdge := rfl
      accCount := by simp only [h.accCount]
      accBits := by simp only [h.accCount, h.accBits]
      afterSample := fun _ => ⟨rfl, rfl⟩
      afterEdge := fun _ => rfl
      buffered := fun _ => by
        by_cases h0 : s.accCount = 0
        · simp [h.accCount, h0]
        · simp [h.accCount, h.buffered h0]
      inOpenFrame := fun _ => ⟨hstart, rfl⟩ }
  | byte clk dibit idx hi he hf ha =>
    obtain ⟨hstart, -⟩ := h.inOpenFrame (State.not_idle_of hf)
    have hfirst := h.buffered (by simp [ha])
    refine ⟨_, .byte clk dibit idx ((h.indexRefused idx).trans hi) ((h.isEdge clk).trans he)
      (by rwa [h.faState]) (by rwa [h.accCount]), ?_, ?_⟩
    · simp only [h.edgeEvents, h.accBits, hfirst, hstart]
    · constructor <;> simp [h.faState, h.accBits, h.byteCount, h.bodyCount, h.cfg, hstart]
  | closed clk dibit idx hi he hf =>
    refine ⟨_, .closed clk dibit idx ((h.indexRefused idx).trans hi) ((h.isEdge clk).trans he)
      (by rwa [h.faState]), ?_, by constructor <;> simp [h.cfg]⟩
    simp only [h.edgeEvents, h.deassertEvents (State.not_idle_of hf)]

/-- An edge that finds the assembler in CLOSING stops. -/
theorem execSample_closing {s : State} {clk : Bool} {idx : Index} (ctrl : Bool) (dibit : Dibit)
    (hi : s.indexRefused idx = false) (he : s.isEdge clk = true) (hc : s.faState = .closing) :
    execSample clk ctrl dibit idx s = .fault .closingAtDispatch := by
  rw [execSample_edge s clk ctrl dibit idx hi he, edgeStages_atDispatch]
  exact frameStep_closing (s.atDispatch clk ctrl dibit idx) idx ctrl dibit hc

/-- What a consumer sees of a run whose first command completes. -/
theorem eventsOf_cons_next {s t : State} {i : Instr} (p : List Instr) (h : exec i s = .next t) :
    eventsOf (runCommands s (i :: p)) = mapNext (t.out ++ ·) (eventsOf (runCommands t p)) := by
  simp only [eventsOf, runCommands_cons_next p h, mapNext_mapNext]

/-- Runs from states that agree show the same events and the same stop. -/
theorem eventsOf_runCommands_of_sameReads {s s' : State} (h : SameReads s s') (p : List Instr) :
    eventsOf (runCommands s' p) = eventsOf (runCommands s p) := by
  induction p generalizing s s' with
  | nil => rfl
  | cons i p ih =>
    obtain ⟨t, ht⟩ | ⟨clk, ctrl, dibit, idx, rfl, hi, hr⟩ | ⟨clk, ctrl, dibit, idx, rfl, hi, he, hf, hr⟩ :=
      exec_stops i s
    · obtain ⟨t', he', hout, h'⟩ := (effect_of_exec ht).of_sameReads h
      rw [eventsOf_cons_next p ht, eventsOf_cons_next p (exec_of_effect he'), hout, ih h']
    · have hr' : exec (.sample clk ctrl dibit idx) s' = _ :=
        execSample_refused s' clk ctrl dibit idx ((h.indexRefused idx).trans hi)
      simp only [runCommands, hr, hr']
    · have hr' : exec (.sample clk ctrl dibit idx) s' = _ :=
        execSample_closing ctrl dibit ((h.indexRefused idx).trans hi) ((h.isEdge clk).trans he) (h.faState.trans hf)
      simp only [runCommands, hr, hr']

/-- Settles O55, by the relation of the states that agree on every guarded read: it holds of the two initial states, and each command keeps it. -/
theorem guardedResetValuesUnobservable : Obligations.GuardedResetValuesUnobservable := by
  unfold Obligations.GuardedResetValuesUnobservable
  intro cfg prevClk lastIdx lastEdgeIdx accFirstIdx frameStartIdx p
  refine eventsOf_runCommands_of_sameReads ?_ p
  constructor <;> simp [State.reset]

end Sys2Proof.Machine

/-! SUPPORT. The rows of 30_encoding.md R72: no two share a word, every word has one, and each row's words decode to its command. -/

namespace Sys2Proof

/-- A row's words in the spec's terms: the bits under the mask are the pattern. -/
theorem CommandRow.takes_iff {r : CommandRow} {w : CommandWord} : r.takes w = true ↔ w &&& r.mask = r.pattern := by
  simp [CommandRow.takes]

/-- Two rows whose patterns differ at a bit under both masks share no word. -/
theorem CommandRow.not_takes_of_takes {r q : CommandRow} {w : CommandWord} (hr : r.takes w = true)
    (hne : r.pattern &&& q.mask ≠ q.pattern &&& r.mask) : q.takes w = false := by
  refine Bool.eq_false_iff.2 fun hq => hne ?_
  rw [← takes_iff.1 hr, ← takes_iff.1 hq]
  ac_rfl

/-- Every word is one of some row's. -/
theorem some_row_takes (w : CommandWord) :
    resetRow.takes w = true ∨ nopRow.takes w = true ∨ sampleRow.takes w = true ∨ eosRow.takes w = true := by
  revert w
  decide

/-- SAMPLE's dibit is the low two bits of the word, D1 above D0. -/
theorem dibitField_eq (w : CommandWord) : dibitField w = w.extractLsb' 0 2 := by
  revert w
  decide

/-- RESET's words, the first row's, whatever else they hold. -/
theorem decode_of_resetRow {w : CommandWord} (h : resetRow.takes w = true) (inIdx : Index) :
    decode w inIdx = .reset := by
  simp [decode, h]

/-- NOP's words: the row above takes none of them. -/
theorem decode_of_nopRow {w : CommandWord} (h : nopRow.takes w = true) (inIdx : Index) :
    decode w inIdx = .nop := by
  have hreset : resetRow.takes w = false := CommandRow.not_takes_of_takes h (by decide)
  simp [decode, hreset, h]

/-- SAMPLE's words: the two rows above take none of them. -/
theorem decode_of_sampleRow {w : CommandWord} (h : sampleRow.takes w = true) (inIdx : Index) :
    decode w inIdx = .sample (clkField w) (ctrlField w) (dibitField w) inIdx := by
  have hreset : resetRow.takes w = false := CommandRow.not_takes_of_takes h (by decide)
  have hnop : nopRow.takes w = false := CommandRow.not_takes_of_takes h (by decide)
  simp [decode, hreset, hnop, h]

/-- EOS's words: the three rows above take none of them. -/
theorem decode_of_eosRow {w : CommandWord} (h : eosRow.takes w = true) (inIdx : Index) :
    decode w inIdx = .eos := by
  have hreset : resetRow.takes w = false := CommandRow.not_takes_of_takes h (by decide)
  have hnop : nopRow.takes w = false := CommandRow.not_takes_of_takes h (by decide)
  have hsample : sampleRow.takes w = false := CommandRow.not_takes_of_takes h (by decide)
  simp [decode, hreset, hnop, hsample]

end Sys2Proof

namespace Sys2Proof.Machine

/-- Settles O31, by the disjoint rows that together take every word. -/
theorem firstMatchingRowDecodes : Obligations.FirstMatchingRowDecodes := by
  unfold Obligations.FirstMatchingRowDecodes
  intro w inIdx
  refine ⟨fun h => decode_of_resetRow (CommandRow.takes_iff.2 h) inIdx,
    fun h => decode_of_nopRow (CommandRow.takes_iff.2 h) inIdx, fun h => ?sample,
    fun h => decode_of_eosRow (CommandRow.takes_iff.2 h) inIdx, ?total⟩
  case sample =>
    rw [decode_of_sampleRow (CommandRow.takes_iff.2 h), dibitField_eq]
    rfl
  case total => simpa only [CommandRow.takes_iff, resetRow, nopRow, sampleRow, eosRow] using some_row_takes w

/-- Settles O32: two words of one row decode to the same command, whatever `in_idx` holds. -/
theorem ignoredBitsChangeNothing : Obligations.IgnoredBitsChangeNothing := by
  unfold Obligations.IgnoredBitsChangeNothing
  intro s w v x y h
  have hdecode : decode w x = decode v y := by
    obtain ⟨hw, hv⟩ | ⟨hw, hv⟩ | ⟨hw, hv⟩ := h
    · rw [decode_of_resetRow (CommandRow.takes_iff.2 hw), decode_of_resetRow (CommandRow.takes_iff.2 hv)]
    · rw [decode_of_nopRow (CommandRow.takes_iff.2 hw), decode_of_nopRow (CommandRow.takes_iff.2 hv)]
    · rw [decode_of_eosRow (CommandRow.takes_iff.2 hw), decode_of_eosRow (CommandRow.takes_iff.2 hv)]
  rw [hdecode]

end Sys2Proof.Machine

/-! SUPPORT. The length of one command's event list, and the event port's lanes (30_encoding.md R78). -/

namespace Sys2Proof.Machine

/-- An edge shows two events, and a third when its spacing is implausible. -/
theorem edgeEvents_length (s : State) (idx : Index) (ctrl : Bool) (dibit : Dibit) :
    (edgeEvents s idx ctrl dibit).length = 2 ∨ (edgeEvents s idx ctrl dibit).length = 3 := by
  unfold edgeEvents
  split
  · exact .inr rfl
  · exact .inl rfl

/-- A close at the end of the stream shows FrameEnd and TRUNCATED, and a third event when the SFD is missing. -/
theorem truncatedEvents_length (s : State) :
    (truncatedEvents s).length = 2 ∨ (truncatedEvents s).length = 3 := by
  simp only [truncatedEvents]
  split
  · exact .inr rfl
  · exact .inl rfl

/-- A close by deassertion shows FrameEnd, at most one status marker, and at most one of MISSING_SFD and RUNT_FRAME: the first needs `sfd_seen = 0`, the second `sfd_seen = 1`. -/
theorem deassertEvents_length_le (s : State) (last : Index) : (deassertEvents s last).length ≤ 3 := by
  by_cases hsfd : s.faState = .inFrame
  · simp only [deassertEvents, hsfd, decide_true, Bool.true_eq_false, false_and, if_false]
    (repeat' split) <;> simp
  · simp only [deassertEvents, hsfd, decide_false, Bool.false_eq_true, false_and, and_false, if_false]
    (repeat' split) <;> simp

/-- The events of an edge with up to three events of the FrameAssembler after them. -/
theorem edgeEvents_append_length_le (s : State) (idx : Index) (ctrl : Bool) (dibit : Dibit) {es : List Event}
    (hes : es.length ≤ 3) : (edgeEvents s idx ctrl dibit ++ es).length ≤ 6 := by
  have := edgeEvents_length s idx ctrl dibit
  rw [List.length_append]
  omega

/-- An accepted command shows at most six events: three at an edge and three at the close of a frame. -/
theorem Effect.out_length_le {s t : State} {i : Instr} (h : Effect s i t) : t.out.length ≤ 6 := by
  cases h with
  | reset => exact Nat.zero_le 6
  | nop => exact Nat.zero_le 6
  | eosIdle hf => exact Nat.zero_le 6
  | eosOpen hf =>
    have := truncatedEvents_length s
    simp only
    omega
  | level clk ctrl dibit idx hi he => exact Nat.zero_le 6
  | quiet clk dibit idx hi he hf =>
    have := edgeEvents_length s idx false dibit
    simp only
    omega
  | opened clk dibit idx hi he hf => exact edgeEvents_append_length_le s idx true dibit (by simp)
  | pushed clk dibit idx hi he hf ha =>
    have := edgeEvents_length s idx true dibit
    simp only
    omega
  | byte clk dibit idx hi he hf ha => exact edgeEvents_append_length_le s idx true dibit (by simp)
  | closed clk dibit idx hi he hf =>
    exact edgeEvents_append_length_le s idx false dibit (deassertEvents_length_le s idx)

/-- The three bits of `out_count` hold the length of a list that fits the six lanes. -/
theorem State.outCount_toNat {s : State} (h : s.out.length ≤ 6) : s.outCount.toNat = s.out.length := by
  simp only [State.outCount, BitVec.toNat_ofNat]
  exact Nat.mod_eq_of_lt (by omega)

/-- A lane below the list's length carries the event's word. -/
theorem State.outEv_of_some {s : State} {k : Nat} {e : Event} (h : s.out[k]? = some e) : s.outEv k = e.encode := by
  simp [State.outEv, h]

/-- A lane at or above the list's length is all zeros. -/
theorem State.outEv_of_length_le {s : State} {k : Nat} (h : s.out.length ≤ k) : s.outEv k = 0 := by
  simp [State.outEv, h]

/-- Settles O26, by the length of the event list that each way to a next state writes out. -/
theorem atMostSixEventsOnSixLanes : Obligations.AtMostSixEventsOnSixLanes := by
  unfold Obligations.AtMostSixEventsOnSixLanes
  intro i s t h
  have hlen : t.out.length ≤ 6 := (effect_of_exec h).out_length_le
  have hcount := State.outCount_toNat hlen
  exact ⟨hlen, hcount, fun k e => State.outEv_of_some, fun k hk => State.outEv_of_length_le (hcount ▸ hk)⟩

end Sys2Proof.Machine

/-! SUPPORT. SAMPLE at the edge detector: when it is refused or completes, the prior state it writes, and its events in the order of 30_encoding.md R79. -/

namespace Sys2Proof.Machine

variable {s t : State} {clk ctrl : Bool} {dibit : Dibit} {idx : Index}

/-- Outside CLOSING an accepted SAMPLE completes: its index and CLOSING are all that can stop it. -/
theorem exec_sample_completes (hf : s.faState ≠ .closing) (hi : s.indexRefused idx = false) :
    ∃ t, exec (.sample clk ctrl dibit idx) s = .next t := by
  obtain hnext | ⟨_, _, _, _, hcmd, hrefused, -⟩ | ⟨_, _, _, _, -, -, -, hclosing, -⟩ :=
    exec_stops (.sample clk ctrl dibit idx) s
  · exact hnext
  · cases hcmd
    exact absurd (hi.symm.trans hrefused) Bool.false_ne_true
  · exact absurd hclosing hf

/-- SAMPLE's refusal is the test of R101, in every state: the other stop is a fault. -/
theorem exec_sample_refused_iff :
    exec (.sample clk ctrl dibit idx) s = .refused .nonIncreasingIndex ↔ s.indexRefused idx = true := by
  refine ⟨fun h => ?_, execSample_refused s clk ctrl dibit idx⟩
  obtain ⟨t, hnext⟩ | ⟨_, _, _, _, hcmd, hrefused, -⟩ | ⟨_, _, _, _, -, -, -, -, hfault⟩ :=
    exec_stops (.sample clk ctrl dibit idx) s
  · cases h.symm.trans hnext
  · cases hcmd
    exact hrefused
  · cases h.symm.trans hfault

/-- The prior-state update of R105, in each of SAMPLE's ways to a next state. -/
theorem Effect.sample_priorState (h : Effect s (.sample clk ctrl dibit idx) t) :
    t.havePrev = true ∧ t.prevClk = clk ∧ t.lastIdx = idx := by
  cases h <;> exact ⟨rfl, rfl, rfl⟩

/-- A SAMPLE that is no edge shows no event. -/
theorem Effect.sample_out_of_level (h : Effect s (.sample clk ctrl dibit idx) t) (he : s.isEdge clk = false) :
    t.out = [] := by
  cases h with
  | level => rfl
  | quiet _ _ _ _ hedge | opened _ _ _ _ hedge | pushed _ _ _ _ hedge | byte _ _ _ _ hedge
  | closed _ _ _ _ hedge => exact absurd (he.symm.trans hedge) Bool.false_ne_true

/-- The events of a close come after every event of the edge itself. -/
theorem deassertEvents_rank (s : State) (last : Index) : ∀ e ∈ deassertEvents s last, 3 ≤ e.rank := by
  simp only [deassertEvents]
  (repeat' split) <;> simp [Event.rank]

/-- At an edge a SAMPLE shows the edge's own events, and after them only later ones of the canonical order. -/
theorem Effect.sample_out_of_edge (h : Effect s (.sample clk ctrl dibit idx) t) (he : s.isEdge clk = true) :
    ∃ es, t.out = edgeEvents s idx ctrl dibit ++ es ∧ ∀ e ∈ es, 3 ≤ e.rank := by
  cases h with
  | level _ _ _ _ _ hlevel => exact absurd (hlevel.symm.trans he) Bool.false_ne_true
  | quiet | pushed => exact ⟨[], (List.append_nil _).symm, by simp⟩
  | opened | byte => exact ⟨_, rfl, by simp [Event.rank]⟩
  | closed => exact ⟨_, rfl, deassertEvents_rank s idx⟩

/-- ClockEdge is the only event of the first place in the canonical order. -/
theorem Event.isClockEdge_eq_false {e : Event} (h : 0 < e.rank) : e.isClockEdge = false := by
  cases e with
  | clockEdge idx => exact absurd h (Nat.lt_irrefl 0)
  | symbolDecoded | byteDecoded | frameStart | frameEnd | errorMarker => rfl

/-- An edge's events begin with ClockEdge, and the spacing marker and SymbolDecoded come after it. -/
theorem edgeEvents_eq_cons (s : State) (idx : Index) (ctrl : Bool) (dibit : Dibit) :
    ∃ es, edgeEvents s idx ctrl dibit = .clockEdge idx :: es ∧ ∀ e ∈ es, 0 < e.rank := by
  refine ⟨_, rfl, ?_⟩
  split <;> simp [Event.rank]

/-- At an edge SAMPLE's first event is ClockEdge, and no other event is one (R102, R104). -/
theorem Effect.sample_clockEdge_first (h : Effect s (.sample clk ctrl dibit idx) t) (he : s.isEdge clk = true) :
    ∃ es, t.out = .clockEdge idx :: es ∧ ∀ e ∈ es, e.isClockEdge = false := by
  obtain ⟨later, hout, hlater⟩ := h.sample_out_of_edge he
  obtain ⟨rest, hedge, hrest⟩ := edgeEvents_eq_cons s idx ctrl dibit
  refine ⟨rest ++ later, by rw [hout, hedge, List.cons_append], fun e hmem => Event.isClockEdge_eq_false ?_⟩
  obtain hmem | hmem := List.mem_append.1 hmem
  · exact hrest e hmem
  · exact Nat.zero_lt_of_lt (hlater e hmem)

/-- RESET and EOS begin a stream with no sample in it. -/
theorem havePrev_of_newStream (h : exec .reset s = .next t ∨ exec .eos s = .next t) : t.havePrev = false := by
  obtain h | h := h
  · cases effect_of_exec h
    rfl
  · cases effect_of_exec h <;> rfl

end Sys2Proof.Machine

namespace Sys2Proof.Machine

/-- Settles O8, by the three answers that SAMPLE can give. -/
theorem sampleRefusedExactlyOnNonIncreasingIndex : Obligations.SampleRefusedExactlyOnNonIncreasingIndex := by
  unfold Obligations.SampleRefusedExactlyOnNonIncreasingIndex
  intro s clk ctrl dibit idx
  exact ⟨exec_sample_refused_iff.trans (s.indexRefused_iff idx),
    fun hf hi => exec_sample_completes hf (State.accepted_of hi)⟩

/-- Settles O10, by the events of a SAMPLE at an edge and at a level. -/
theorem clockEdgeExactlyOnRisingSample : Obligations.ClockEdgeExactlyOnRisingSample := by
  unfold Obligations.ClockEdgeExactlyOnRisingSample
  intro s clk ctrl dibit idx t h
  have heff := effect_of_exec h
  split
  case isTrue hedge =>
    obtain ⟨es, hout, hes⟩ := heff.sample_clockEdge_first ((s.isEdge_iff clk).2 hedge)
    simpa [hout] using hes
  case isFalse hlevel => exact heff.sample_out_of_level (State.level_of hlevel)

/-- Settles O11: with no previous sample, and with a high one, SAMPLE takes the way of a level. -/
theorem firstSampleIsNeverAnEdge : Obligations.FirstSampleIsNeverAnEdge := by
  unfold Obligations.FirstSampleIsNeverAnEdge
  intro s clk ctrl dibit idx
  refine ⟨fun hp => ?first, fun hp hc hlt => ?high, fun t => havePrev_of_newStream⟩
  case first =>
    exact exec_of_effect (.level clk ctrl dibit idx (State.accepted_of (by simp [hp])) (State.level_of (by simp [hp])))
  case high =>
    simpa only [hp] using
      exec_of_effect (.level clk ctrl dibit idx (State.accepted_of_lt hlt) (State.level_of (by simp [hc])))

/-- Settles O12: the SAMPLE completes, and each way to its next state writes the prior state. -/
theorem acceptedSampleWritesPriorState : Obligations.AcceptedSampleWritesPriorState := by
  unfold Obligations.AcceptedSampleWritesPriorState
  intro s clk ctrl dibit idx hf hi
  obtain ⟨t, h⟩ := exec_sample_completes hf (State.accepted_of hi)
  exact ⟨t, h, (effect_of_exec h).sample_priorState⟩

end Sys2Proof.Machine

/-! SUPPORT. The FrameAssembler's data units in the words of 42_frame_assembler.md: the first dibit's place, the saturating counters, the state after a completed byte. -/

namespace Sys2Proof.Machine

/-- The first dibit of an empty accumulator stands in the low two bits (R133). -/
theorem setDibit_zero_zero (dibit : Dibit) : setDibit 0 0 dibit = 0#4 ++ dibit := by
  revert dibit
  decide

/-- `sat_inc` stays at the counter's greatest value and counts up from every other. -/
theorem satInc_eq (c : Count) : satInc c = if c = 0xFFFFFFFF then 0xFFFFFFFF else c + 1 := by
  unfold satInc
  split
  case isTrue hlt => rw [if_neg (BitVec.ne_of_lt hlt)]
  case isFalse hge =>
    have hmax : c = 0xFFFFFFFF := by bv_omega
    rw [hmax, if_pos rfl]

/-- An open frame is in PREAMBLE exactly when its SFD has not been recognised. -/
theorem State.preamble_iff_of_open {s : State} (hf : s.faState = .preamble ∨ s.faState = .inFrame) :
    s.faState = .preamble ↔ s.faState ≠ .inFrame := by
  rcases hf with hf | hf <;> simp [hf]

end Sys2Proof.Machine

namespace Sys2Proof.Machine

/-- Settles O16: with no frame open and no carrier, the edge is all that the SAMPLE shows. -/
theorem idleEdgeWithoutCarrierChangesNoFrame : Obligations.IdleEdgeWithoutCarrierChangesNoFrame := by
  unfold Obligations.IdleEdgeWithoutCarrierChangesNoFrame
  intro s dibit idx hp hc hlt hf
  simpa only [hp] using exec_of_effect (.quiet true dibit idx (State.accepted_of_lt hlt) (State.edge_of hp hc) hf)

/-- Settles O17: the SAMPLE opens a frame, and its dibit takes the first place of the accumulator. -/
theorem carrierStartsAFrame : Obligations.CarrierStartsAFrame := by
  unfold Obligations.CarrierStartsAFrame
  intro s dibit idx hp hc hlt hf
  simpa only [hp, setDibit_zero_zero] using
    exec_of_effect (.opened true dibit idx (State.accepted_of_lt hlt) (State.edge_of hp hc) hf)

/-- Settles O19: the SAMPLE completes a byte; PREAMBLE and IN_FRAME are the two states of an open frame. -/
theorem fourthDibitCompletesAByte : Obligations.FourthDibitCompletesAByte := by
  unfold Obligations.FourthDibitCompletesAByte
  intro s dibit idx hp hc hlt hf ha
  simp only [hp, State.preamble_iff_of_open hf, ite_not, ← satInc_eq]
  exact exec_of_effect (.byte true dibit idx (State.accepted_of_lt hlt) (State.edge_of hp hc) hf ha)

/-- Settles O20: the SAMPLE closes the open frame, whichever of its two states it is in. -/
theorem deassertionClosesTheFrame : Obligations.DeassertionClosesTheFrame := by
  unfold Obligations.DeassertionClosesTheFrame
  intro s dibit idx hp hc hlt hf
  simpa only [hp] using exec_of_effect (.closed true dibit idx (State.accepted_of_lt hlt) (State.edge_of hp hc) hf)

end Sys2Proof.Machine

/-! SUPPORT. The markers of one command's event list (43_error_classifier.md R180): those of a close stand after the FrameEnd they belong to, and the spacing marker among the edge's own events. -/

namespace Sys2Proof.Machine

variable {s t : State} {i : Instr} {kind : MarkerKind}

/-- Every marker but the spacing marker comes after FrameEnd's place in the canonical order. -/
theorem Event.rank_of_closeMarker {e : Event} (hk : kind ≠ .unexpectedEdgeSpacing) (h : e.isMarker kind = true) :
    3 < e.rank := by
  cases e with
  | errorMarker first last k detail =>
    obtain rfl : k = kind := by simpa [Event.isMarker] using h
    cases k <;> simp_all [Event.rank]
  | clockEdge | symbolDecoded | byteDecoded | frameStart | frameEnd => cases h

/-- The spacing marker comes between ClockEdge and SymbolDecoded in the canonical order. -/
theorem Event.rank_of_spacingMarker {e : Event} (h : e.isMarker .unexpectedEdgeSpacing = true) : e.rank = 1 := by
  cases e with
  | errorMarker first last k detail =>
    obtain rfl : k = .unexpectedEdgeSpacing := by simpa [Event.isMarker] using h
    rfl
  | clockEdge | symbolDecoded | byteDecoded | frameStart | frameEnd => cases h

/-- A FrameEnd's place in the canonical order. -/
theorem Event.rank_of_isFrameEnd {e : Event} (h : e.isFrameEnd = true) : e.rank = 3 := by
  cases e with
  | frameEnd => rfl
  | clockEdge | symbolDecoded | byteDecoded | frameStart | errorMarker => cases h

/-- The edge's own events come before FrameEnd's place in the canonical order. -/
theorem edgeEvents_rank_lt (s : State) (idx : Index) (ctrl : Bool) (dibit : Dibit) :
    ∀ e ∈ edgeEvents s idx ctrl dibit, e.rank < 3 := by
  unfold edgeEvents
  split <;> simp [Event.rank]

/-- The markers of a close, its status marker as a list of none or one. -/
theorem closeMarkerEvents_eq (s : State) (status : FrameStatus) (sfd : Bool) (last : Index) :
    closeMarkerEvents s status sfd last =
      (statusMarker status).toList.map (.errorMarker s.frameStartIdx last · (zextDibits s.accCount)) ++
      (if s.missingSfd sfd then [.errorMarker s.frameStartIdx last .missingSfd (zextCount s.byteCount)] else []) ++
      (if s.runtFrame status sfd then [.errorMarker s.frameStartIdx last .runtFrame (zextCount s.bodyCount)]
        else []) := by
  cases status <;> rfl

/-- The markers of a close come after FrameEnd's place in the canonical order. -/
theorem closeMarkerEvents_rank (s : State) (status : FrameStatus) (sfd : Bool) (last : Index) :
    ∀ e ∈ closeMarkerEvents s status sfd last, 3 < e.rank := by
  have hstatus : ∀ e ∈ (statusMarker status).toList.map
      (Event.errorMarker s.frameStartIdx last · (zextDibits s.accCount)), 3 < e.rank := by
    cases status <;> simp [statusMarker, Event.rank]
  intro e he
  simp only [closeMarkerEvents_eq, List.mem_append, List.mem_ite_nil_right, List.mem_singleton] at he
  obtain (he | ⟨-, rfl⟩) | ⟨-, rfl⟩ := he
  · exact hstatus e he
  · exact (by decide : 3 < 5)
  · exact (by decide : 3 < 6)

/-- A command that closes a frame shows the close's events after earlier ones of the canonical order; every other command shows neither a FrameEnd nor anything that comes after one. -/
theorem Effect.closes_or_not (h : Effect s i t) :
    (∃ before last cause, t.out = before ++ closeEvents s last cause ∧ ∀ e ∈ before, e.rank < 3) ∨
    ∀ e ∈ t.out, e.rank ≤ 3 ∧ e.isFrameEnd = false := by
  have edge (idx ctrl dibit) : ∀ e ∈ edgeEvents s idx ctrl dibit, e.rank ≤ 3 ∧ e.isFrameEnd = false := by
    intro e he
    have hlt := edgeEvents_rank_lt s idx ctrl dibit e he
    exact ⟨Nat.le_of_lt hlt, Bool.eq_false_iff.2 fun hend => Nat.ne_of_lt hlt (Event.rank_of_isFrameEnd hend)⟩
  cases h with
  | reset | nop | eosIdle | level => exact .inr (by simp [State.reset])
  | eosOpen => exact .inl ⟨[], s.lastIdx, .eos, (closeEvents_eos s).symm, by simp⟩
  | quiet clk dibit idx => exact .inr (edge idx false dibit)
  | pushed clk dibit idx => exact .inr (edge idx true dibit)
  | opened clk dibit idx | byte clk dibit idx =>
    refine .inr fun e he => ?_
    obtain he | he := List.mem_append.1 he
    · exact edge idx true dibit e he
    · obtain rfl := List.mem_singleton.1 he
      exact ⟨Nat.le_refl 3, rfl⟩
  | closed clk dibit idx =>
    exact .inl ⟨edgeEvents s idx false dibit, idx, .deassert, by rw [closeEvents_deassert],
      edgeEvents_rank_lt s idx false dibit⟩

/-- A command's FrameEnd is the one its close writes, and the markers after it are the close's. -/
theorem Effect.frameEnd_cases (h : Effect s i t) {e : Event} (he : e ∈ t.out) (hend : e.isFrameEnd = true) :
    ∃ last cause, e = s.frameEndEvent (s.classifyStatus cause) last ∧
      ∀ kind, kind ≠ .unexpectedEdgeSpacing → t.out.filter (Event.isMarker kind) =
        (closeMarkerEvents s (s.classifyStatus cause) s.sfdSeen last).filter (Event.isMarker kind) := by
  have hrank := Event.rank_of_isFrameEnd hend
  obtain ⟨before, last, cause, hout, hbefore⟩ | hnone := h.closes_or_not
  · refine ⟨last, cause, ?_, fun kind hk => ?_⟩
    · rw [hout, closeEvents, List.mem_append, List.mem_cons] at he
      obtain he | he | he := he
      · exact absurd hrank (Nat.ne_of_lt (hbefore e he))
      · exact he
      · exact absurd hrank (Nat.ne_of_gt (closeMarkerEvents_rank _ _ _ _ e he))
    · have hnil : before.filter (Event.isMarker kind) = [] := List.filter_eq_nil_iff.2 fun e he hm =>
        absurd (Event.rank_of_closeMarker hk hm) (Nat.lt_asymm (hbefore e he))
      rw [hout, List.filter_append, hnil, closeEvents]
      rfl
  · exact absurd hend (Bool.eq_false_iff.1 (hnone e he).2)

/-- No event satisfies a test whose filter is empty. -/
theorem all_not_of_filter_eq_nil {p : Event → Bool} {l : List Event} (h : l.filter p = []) :
    l.all (fun e => !p e) = true := by
  simpa using h

/-- A command without FrameEnd shows no marker of a close. -/
theorem Effect.no_closeMarker (h : Effect s i t) (hk : kind ≠ .unexpectedEdgeSpacing)
    (hend : t.out.any Event.isFrameEnd = false) : t.out.all (fun e => !e.isMarker kind) = true := by
  obtain ⟨before, last, cause, hout, -⟩ | hnone := h.closes_or_not
  · simp [hout, closeEvents, State.frameEndEvent, Event.isFrameEnd] at hend
  · refine all_not_of_filter_eq_nil (List.filter_eq_nil_iff.2 fun e he hm => ?_)
    exact absurd (Event.rank_of_closeMarker hk hm) (Nat.not_lt.2 (hnone e he).1)

/-- A close without a marker of a kind: a command shows none, whether it closes a frame or not. -/
theorem Effect.no_closeMarker_of_close (h : Effect s i t) (hk : kind ≠ .unexpectedEdgeSpacing)
    (hclose : ∀ status last, (closeMarkerEvents s status s.sfdSeen last).filter (Event.isMarker kind) = []) :
    t.out.all (fun e => !e.isMarker kind) = true := by
  cases hend : t.out.any Event.isFrameEnd with
  | false => exact h.no_closeMarker hk hend
  | true =>
    obtain ⟨e, he, hfe⟩ := List.any_eq_true.1 hend
    obtain ⟨last, cause, -, hfilter⟩ := h.frameEnd_cases he hfe
    exact all_not_of_filter_eq_nil ((hfilter kind hk).trans (hclose _ last))

/-- The markers of one kind in a list of none or one marker. -/
theorem filter_markerIf (c : Bool) (k kind : MarkerKind) (first last : Index) (detail : BitVec 64) :
    (if c then [Event.errorMarker first last k detail] else []).filter (Event.isMarker kind) =
      if k = kind ∧ c = true then [.errorMarker first last k detail] else [] := by
  cases c <;> by_cases h : k = kind <;> simp [Event.isMarker, h]

/-- The markers of one kind in a list of none or one kind. -/
theorem filter_markerOf (o : Option MarkerKind) (kind : MarkerKind) (first last : Index) (detail : BitVec 64) :
    (o.toList.map (Event.errorMarker first last · detail)).filter (Event.isMarker kind) =
      if o = some kind then [.errorMarker first last kind detail] else [] := by
  cases o with
  | none => rfl
  | some k => by_cases h : k = kind <;> simp [Event.isMarker, h]

/-- MISSING_SFD and RUNT_FRAME repeat no status. -/
theorem statusMarker_ne (status : FrameStatus) :
    statusMarker status ≠ some .missingSfd ∧ statusMarker status ≠ some .runtFrame := by
  cases status <;> decide

/-- The MISSING_SFD markers of a close (R182). -/
theorem closeMarkerEvents_missingSfd (s : State) (status : FrameStatus) (sfd : Bool) (last : Index) :
    (closeMarkerEvents s status sfd last).filter (Event.isMarker .missingSfd) =
      if s.missingSfd sfd then [.errorMarker s.frameStartIdx last .missingSfd (zextCount s.byteCount)] else [] := by
  simp [closeMarkerEvents_eq, filter_markerIf, filter_markerOf, statusMarker_ne]

/-- The RUNT_FRAME markers of a close (R183). -/
theorem closeMarkerEvents_runtFrame (s : State) (status : FrameStatus) (sfd : Bool) (last : Index) :
    (closeMarkerEvents s status sfd last).filter (Event.isMarker .runtFrame) =
      if s.runtFrame status sfd then [.errorMarker s.frameStartIdx last .runtFrame (zextCount s.bodyCount)]
      else [] := by
  simp [closeMarkerEvents_eq, filter_markerIf, filter_markerOf, statusMarker_ne]

/-- The markers of a close of any other kind: the one that repeats the status (R181, R184). -/
theorem closeMarkerEvents_status (s : State) (status : FrameStatus) (sfd : Bool) (last : Index)
    (hm : .missingSfd ≠ kind) (hr : .runtFrame ≠ kind) :
    (closeMarkerEvents s status sfd last).filter (Event.isMarker kind) =
      if statusMarker status = some kind
      then [.errorMarker s.frameStartIdx last kind (zextDibits s.accCount)] else [] := by
  simp [closeMarkerEvents_eq, filter_markerIf, filter_markerOf, hm, hr]

end Sys2Proof.Machine

namespace Sys2Proof.Machine

/-- Settles O22, by the markers of the close that the FrameEnd belongs to. -/
theorem missingSfdExactlyAtCloseOverBudget : Obligations.MissingSfdExactlyAtCloseOverBudget := by
  unfold Obligations.MissingSfdExactlyAtCloseOverBudget
  intro i s t h
  have heff := effect_of_exec h
  refine ⟨fun first last status resCount resBits byteCount bodyCount sfdSeen hmem => ?atFrameEnd,
    fun hmax => ?unbounded, heff.no_closeMarker (by decide)⟩
  case atFrameEnd =>
    obtain ⟨_, cause, heq, hfilter⟩ := heff.frameEnd_cases hmem rfl
    cases heq
    rw [hfilter .missingSfd (by decide), closeMarkerEvents_missingSfd]
    simp only [State.missingSfd_iff, zextCount]
  case unbounded =>
    refine heff.no_closeMarker_of_close (by decide) fun status last => ?_
    have hnever : s.missingSfd s.sfdSeen = false := Bool.eq_false_iff.2 fun hm => by
      obtain ⟨-, hlt⟩ := (s.missingSfd_iff _).1 hm
      bv_omega
    simp [closeMarkerEvents_missingSfd, hnever]

/-- Settles O23, by the markers of the close that the FrameEnd belongs to. -/
theorem runtExactlyAtShortCompleteClose : Obligations.RuntExactlyAtShortCompleteClose := by
  unfold Obligations.RuntExactlyAtShortCompleteClose
  intro i s t h
  have heff := effect_of_exec h
  refine ⟨fun first last status resCount resBits byteCount bodyCount sfdSeen hmem => ?atFrameEnd,
    fun hzero => ?turnedOff, heff.no_closeMarker (by decide)⟩
  case atFrameEnd =>
    obtain ⟨_, cause, heq, hfilter⟩ := heff.frameEnd_cases hmem rfl
    cases heq
    rw [hfilter .runtFrame (by decide), closeMarkerEvents_runtFrame]
    simp only [State.runtFrame_iff, zextCount]
  case turnedOff =>
    refine heff.no_closeMarker_of_close (by decide) fun status last => ?_
    have hnever : s.runtFrame status s.sfdSeen = false := Bool.eq_false_iff.2 fun hm => by
      obtain ⟨-, -, hlt⟩ := (s.runtFrame_iff _ _).1 hm
      bv_omega
    simp [closeMarkerEvents_runtFrame, hnever]

/-- Each of the three status markers stands for one status (R184). -/
theorem statusMarker_eq_some_iff (status : FrameStatus) :
    (statusMarker status = some .falseCarrier ↔ status = .falseCarrier) ∧
    (statusMarker status = some .dribble ↔ status = .completeUnaligned) ∧
    (statusMarker status = some .truncated ↔ status = .truncated) := by
  cases status <;> decide

/-- CompleteUnaligned is the status of a close with dibits left over (R140). -/
theorem State.accCount_ne_zero_of_unaligned {s : State} {cause : CloseCause}
    (h : s.classifyStatus cause = .completeUnaligned) : s.accCount ≠ 0 := by
  cases cause with
  | eos => cases h
  | deassert =>
    intro hz
    simp only [State.classifyStatus, hz, if_true] at h
    split at h <;> cases h

/-- Settles O24, by the status marker of the close that the FrameEnd belongs to. -/
theorem statusMarkerRepeatsTheStatus : Obligations.StatusMarkerRepeatsTheStatus := by
  unfold Obligations.StatusMarkerRepeatsTheStatus
  intro i s t first last status resCount resBits byteCount bodyCount sfdSeen h hmem
  obtain ⟨_, cause, heq, hfilter⟩ := (effect_of_exec h).frameEnd_cases hmem rfl
  cases heq
  obtain ⟨hfalse, hdribble, htruncated⟩ := statusMarker_eq_some_iff (s.classifyStatus cause)
  have hmarker {kind : MarkerKind} (hk : kind ≠ .unexpectedEdgeSpacing) (hm : .missingSfd ≠ kind)
      (hr : .runtFrame ≠ kind) := (hfilter kind hk).trans (closeMarkerEvents_status s _ s.sfdSeen _ hm hr)
  refine ⟨?falseCarrier, ?dribble, ?truncated, fun hunaligned => ?leftover⟩
  case falseCarrier =>
    simpa only [hfalse, zextDibits] using
      hmarker (kind := .falseCarrier) (by decide) (by decide) (by decide)
  case dribble =>
    simpa only [hdribble, zextDibits] using
      hmarker (kind := .dribble) (by decide) (by decide) (by decide)
  case truncated =>
    simpa only [htruncated, zextDibits] using
      hmarker (kind := .truncated) (by decide) (by decide) (by decide)
  case leftover =>
    have := State.accCount_ne_zero_of_unaligned hunaligned
    bv_omega

end Sys2Proof.Machine

/-! SUPPORT. The spacing check at an edge, and the edge it records (43_error_classifier.md R185, 40_edge_detector.md R100). -/

namespace Sys2Proof.Machine

/-- A SAMPLE at an edge records it. -/
theorem Effect.sample_edge_recorded {s t : State} {clk ctrl : Bool} {dibit : Dibit} {idx : Index}
    (h : Effect s (.sample clk ctrl dibit idx) t) (he : s.isEdge clk = true) :
    t.haveEdge = true ∧ t.lastEdgeIdx = idx := by
  cases h with
  | level _ _ _ _ _ hlevel => exact absurd (hlevel.symm.trans he) Bool.false_ne_true
  | quiet | opened | pushed | byte | closed => exact ⟨rfl, rfl⟩

/-- Events after the edge's own hold no spacing marker. -/
theorem filter_spacingMarker_of_rank {es : List Event} (h : ∀ e ∈ es, 3 ≤ e.rank) :
    es.filter (Event.isMarker .unexpectedEdgeSpacing) = [] :=
  List.filter_eq_nil_iff.2 fun e he hm => by
    have hplace := Event.rank_of_spacingMarker hm
    have hlater := h e he
    omega

/-- Settles O15: the edge's own events come first, and the spacing check decides among them alone. -/
theorem edgeSpacingMarkedExactlyWhenImplausible : Obligations.EdgeSpacingMarkedExactlyWhenImplausible := by
  unfold Obligations.EdgeSpacingMarkedExactlyWhenImplausible
  intro s ctrl dibit idx t hp hc h
  have heff := effect_of_exec h
  have hedge := State.edge_of hp hc
  obtain ⟨es, hout, hes⟩ := heff.sample_out_of_edge hedge
  rw [hout]
  refine ⟨?marker, fun hchecked hempty => ?emptyWindow, heff.sample_edge_recorded hedge⟩
  case marker =>
    split
    case isTrue himplausible =>
      rw [edgeEvents, if_pos himplausible]
      rfl
    case isFalse hplausible =>
      rw [edgeEvents, if_neg hplausible]
      have hlater := filter_spacingMarker_of_rank hes
      exact ⟨rfl, all_not_of_filter_eq_nil hlater⟩
  case emptyWindow =>
    have houtside : idx - s.lastEdgeIdx < s.cfg.edgeDeltaMin ∨ s.cfg.edgeDeltaMax < idx - s.lastEdgeIdx := by
      generalize idx - s.lastEdgeIdx = delta
      bv_omega
    rw [edgeEvents, if_pos ⟨hchecked, houtside⟩]
    rfl

end Sys2Proof.Machine

/-! SUPPORT. The FrameEnd of an open frame against the dibits that its frame consumed (43_error_classifier.md R188). -/

namespace Sys2Proof.Machine

variable {s : State} {n : Nat}

/-- Between commands an open frame is in PREAMBLE or IN_FRAME (I1). -/
theorem Inv.open_cases (h : Inv s) (ho : s.frameOpen = true) : s.faState = .preamble ∨ s.faState = .inFrame := by
  have hclosing := h.notClosing
  unfold State.frameOpen at ho
  cases hf : s.faState <;> simp_all

/-- Between commands an open frame's stream has a previous sample (I5, I6). -/
theorem Inv.havePrev_of_open (h : Inv s) (ho : s.frameOpen = true) : s.havePrev = true :=
  (h.edgeSampled (h.openAfterEdge ho).1).1

/-- A close by deassertion shows the frame's FrameEnd. -/
theorem frameEnd_mem_deassertEvents (s : State) (last : Index) :
    s.frameEndEvent (s.classifyStatus .deassert) last ∈ deassertEvents s last :=
  closeEvents_deassert s last ▸ List.mem_cons_self

/-- A close at the end of the stream shows the frame's FrameEnd. -/
theorem frameEnd_mem_truncatedEvents (s : State) : s.frameEndEvent .truncated s.lastIdx ∈ truncatedEvents s :=
  closeEvents_eos s ▸ List.mem_cons_self

/-- The buffered dibits are those past the last byte boundary. -/
theorem accCount_eq_mod (hn : n = 4 * s.byteCount.toNat + s.accCount.toNat) : s.accCount.toNat = n % 4 := by
  have := s.accCount.isLt
  omega

/-- The status of a close by deassertion, read off the number of dibits consumed (R140, R188). -/
theorem classifyStatus_of_dibits (hn : n = 4 * s.byteCount.toNat + s.accCount.toNat) :
    s.classifyStatus .deassert =
      if n < 4 then .falseCarrier else if n % 4 = 0 then .completeAligned else .completeUnaligned := by
  have hmod := accCount_eq_mod hn
  have hbyte : s.byteCount = 0 ↔ n < 4 := by
    have := s.accCount.isLt
    bv_omega
  have hacc : s.accCount = 0 ↔ n % 4 = 0 := by bv_omega
  simp only [State.classifyStatus, hbyte, hacc]

end Sys2Proof.Machine

namespace Sys2Proof.Machine

/-- Settles O52, by I7: the dibits counted off the commands are what the registers that decide the status hold. -/
theorem dibitCountPredictsStatus : Obligations.DibitCountPredictsStatus := by
  unfold Obligations.DibitCountPredictsStatus
  intro cfg p t evs dibit idx h ho hb hc hlt n
  obtain ⟨hinv, hdibits⟩ := runInvariantsOneToSeven cfg p t evs h
  have hn : n = 4 * t.byteCount.toNat + t.accCount.toNat := hdibits hb
  have hf := hinv.open_cases ho
  refine ⟨⟨_, t.classifyStatus .deassert, t.accCount, exec_of_effect (.closed true dibit idx ?accepted ?edge hf),
      List.mem_append_right _ (frameEnd_mem_deassertEvents t idx), accCount_eq_mod hn, classifyStatus_of_dibits hn⟩,
    ⟨_, t.accCount, exec_of_effect (.eosOpen (State.not_idle_of hf)),
      frameEnd_mem_truncatedEvents t, accCount_eq_mod hn⟩⟩
  case accepted => exact State.accepted_of_lt hlt
  case edge => exact State.edge_of (hinv.havePrev_of_open ho) hc

end Sys2Proof.Machine

/-! SUPPORT. EOS reaches the reset registers from every state (44_stream_control.md R203). -/

namespace Sys2Proof.Machine

/-- EOS completes with every register at reset, whether or not it had a frame to close. -/
theorem exec_eos_atReset (s : State) : ∃ t, exec .eos s = .next t ∧ AtReset t := by
  by_cases hf : s.faState = .idle
  · exact ⟨_, exec_of_effect (.eosIdle hf), atReset_reset _ _ _⟩
  · exact ⟨_, exec_of_effect (.eosOpen hf), atReset_reset _ _ _⟩

/-- Settles O6: the reset registers hold no previous sample, so the next SAMPLE is a stream's first (R103). -/
theorem eosBeginsANewStream : Obligations.EosBeginsANewStream := by
  unfold Obligations.EosBeginsANewStream
  intro s
  obtain ⟨t, h, hreset⟩ := exec_eos_atReset s
  refine ⟨t, h, hreset, fun clk ctrl dibit idx => ?_⟩
  exact (firstSampleIsNeverAnEdge t clk ctrl dibit idx).1 hreset.havePrev

end Sys2Proof.Machine

/-! SUPPORT. What a command and a cycle read: not the events shown, and of the host's coming cycles only the next one (70_reset_and_hazards.md R258). -/

namespace Sys2Proof.Machine

/-- A command carries the host's coming cycles along, at a next state and at either stop. -/
theorem exec_setInput (i : Instr) (s : State) (q : List PortCycle) :
    exec i { s with input := q } = mapNext (fun t => { t with input := q }) (exec i s) := by
  obtain ⟨t, ht⟩ | ⟨clk, ctrl, dibit, idx, rfl, hi, hr⟩ | ⟨clk, ctrl, dibit, idx, rfl, hi, he, hf, hr⟩ :=
    exec_stops i s
  · rw [ht, mapNext_next]
    exact exec_of_effect ((effect_of_exec ht).setInput q)
  · rw [hr, mapNext_refused]
    exact execSample_refused { s with input := q } clk ctrl dibit idx hi
  · rw [hr, mapNext_fault]
    exact execSample_closing (s := { s with input := q }) ctrl dibit hi he hf

/-- A cycle reads the first of the coming cycles only, and leaves the others. -/
theorem step_reads_head (s : State) (c : PortCycle) (rest : List PortCycle) :
    step { s with input := c :: rest } =
      mapNext (fun t => { t with input := rest }) (step { s with input := [c] }) := by
  cases hc : (!c.rst && c.cfg != s.cfg) with
  | true => simp [step, State.configurationChanged, State.presented, hc]
  | false =>
    simp only [step, State.configurationChanged, State.presented, hc]
    exact exec_setInput c.command { s with cfg := c.cfg, input := [] } rest

/-- A run over the first cycles is the same whatever cycles follow, which it leaves. -/
theorem runCycles_append (s : State) (first later : List PortCycle) :
    runCycles first.length { s with input := first ++ later } =
      mapNext (fun r => ({ r.1 with input := later }, r.2)) (runCycles first.length { s with input := first }) := by
  induction first generalizing s with
  | nil => rfl
  | cons c first ih =>
    have hlong := step_reads_head s c (first ++ later)
    have hshort := step_reads_head s c first
    simp only [List.length_cons, List.cons_append, runCycles, hlong, hshort]
    cases step { s with input := [c] } with
    | next t => simp only [mapNext_next, ih, mapNext_mapNext]
    | fault r => rfl
    | refused r => rfl

/-- Settles O54: a command reads neither the port nor the coming cycles, and a run, by induction over its cycles, none of the later ones. -/
theorem noLookahead : Obligations.NoLookahead := by
  unfold Obligations.NoLookahead
  refine ⟨fun i s o q => ?_, runCycles_append⟩
  calc exec i { s with out := o, input := q }
      = exec i { s with input := q } := exec_setOut i { s with input := q } o
    _ = mapNext (fun t => { t with input := q }) (exec i s) := exec_setInput i s q

end Sys2Proof.Machine

/-! SUPPORT. The cycles with `rst = 1` (70_reset_and_hazards.md R250). -/

namespace Sys2Proof.Machine

/-- With `rst = 1` the word is one of RESET's, whatever `in_cmd` and `in_idx` hold. -/
theorem PortCycle.command_of_rst {c : PortCycle} (h : c.rst = true) : c.command = .reset := by
  have htakes : ∀ inCmd : BitVec 6, resetRow.takes (BitVec.ofBool true ++ inCmd) = true := by decide
  refine decode_of_resetRow ?_ c.inIdx
  rw [PortCycle.word, h]
  exact htakes c.inCmd

/-- A cycle with `rst = 1` is RESET under the configuration it drives; no change of configuration refuses it. -/
theorem step_of_rst {s : State} {c : PortCycle} {rest : List PortCycle} (hin : s.input = c :: rest)
    (h : c.rst = true) : step s = exec .reset s.accept := by
  have hp : s.presented = c := by simp [State.presented, hin]
  simp [step, State.configurationChanged, hp, h, PortCycle.command_of_rst h]

/-- Settles O1: the cycle runs RESET, whose next state holds the reset registers and an empty port. -/
theorem resetCycleClearsEveryRegister : Obligations.ResetCycleClearsEveryRegister := by
  unfold Obligations.ResetCycleClearsEveryRegister
  intro s c rest hin h
  exact ⟨_, (step_of_rst hin h).trans (exec_of_effect .reset), atReset_reset _ _ _, rfl, rfl⟩

end Sys2Proof.Machine

/-! SUPPORT. The strengthened frame invariant (42_frame_assembler.md R134, R140): every command and every cycle keeps it. -/

namespace Sys2Proof.Machine

variable {s t : State} {i : Instr}

/-- A saturating counter that has counted is not 0. -/
theorem satInc_ne_zero (c : Count) : satInc c ≠ 0 := by
  unfold satInc
  split <;> bv_omega

/-- A saturating counter never counts down. -/
theorem le_satInc (c : Count) : c ≤ satInc c := by
  unfold satInc
  split <;> bv_omega

/-- Saturating counting keeps the order of two counters. -/
theorem satInc_le_satInc {a b : Count} (h : a ≤ b) : satInc a ≤ satInc b := by
  unfold satInc
  (repeat' split) <;> bv_omega

/-- The reset registers meet the strengthened invariant. -/
theorem frameInv_of_atReset (h : AtReset s) : FrameInv s where
  toInv := inv_of_atReset h
  accRange hacc := absurd h.accCount hacc
  holdsDibit ho := by simp [State.frameOpen, h.faState] at ho
  bodyWithin := by simp [h.bodyCount, h.byteCount]
  inFrameByte hf := by simp [h.faState] at hf

/-- The buffered dibits of an open frame were sampled at edges before an accepted SAMPLE. -/
theorem FrameInv.accFirst_lt {idx : Index} (h : FrameInv s) (hi : s.indexRefused idx = false)
    (hf : s.faState = .preamble ∨ s.faState = .inFrame) (ha : s.accCount ≠ 0) :
    s.frameStartIdx ≤ s.accFirstIdx ∧ s.accFirstIdx < idx := by
  obtain ⟨hstart, hedge⟩ := h.accRange ha
  obtain ⟨he, -⟩ := h.openAfterEdge (State.frameOpen_of hf)
  exact ⟨hstart, Nat.lt_of_le_of_lt hedge (h.edge_lt hi he)⟩

/-- Every accepted command keeps the strengthened invariant. -/
theorem Effect.keeps_frameInv (h : Effect s i t) (hs : FrameInv s) : FrameInv t := by
  have hinv : Inv t := h.keeps_inv hs.toInv
  cases h with
  | reset | eosIdle | eosOpen => exact frameInv_of_atReset (atReset_reset _ _ _)
  | nop | level => exact { hs with toInv := hinv }
  | quiet clk dibit idx hi he hf =>
    obtain ⟨hacc, -⟩ := hs.idleClear hf
    exact { hs with toInv := hinv, accRange := fun hne => absurd hacc hne }
  | opened clk dibit idx hi he hf =>
    exact {
      toInv := hinv
      accRange := fun _ => ⟨BitVec.le_refl idx, BitVec.le_refl idx⟩
      holdsDibit := fun _ => .inr (by simp)
      bodyWithin := BitVec.le_refl 0
      inFrameByte := FaState.noConfusion }
  | pushed clk dibit idx hi he hf ha =>
    refine { hs with toInv := hinv, accRange := fun _ => ?range, holdsDibit := fun _ => .inr ?buffered }
    case range =>
      by_cases h0 : s.accCount = 0
      · simpa only [if_pos h0] using ⟨hs.start_le hi hf, BitVec.le_refl idx⟩
      · obtain ⟨hstart, hlt⟩ := hs.accFirst_lt hi hf h0
        simpa only [if_neg h0] using ⟨hstart, BitVec.le_of_lt hlt⟩
    case buffered =>
      simp only
      bv_omega
  | byte clk dibit idx hi he hf ha =>
    refine {
      toInv := hinv
      accRange := fun hne => absurd rfl hne
      holdsDibit := fun _ => .inl (satInc_ne_zero _)
      bodyWithin := ?body
      inFrameByte := fun _ => satInc_ne_zero _ }
    case body =>
      simp only
      split
      · exact satInc_le_satInc hs.bodyWithin
      · exact Nat.le_trans hs.bodyWithin (le_satInc _)
  | closed clk dibit idx hi he hf =>
    exact {
      toInv := hinv
      accRange := fun hne => absurd rfl hne
      holdsDibit := fun ho => nomatch ho
      bodyWithin := BitVec.le_refl 0
      inFrameByte := FaState.noConfusion }

/-- A cycle that answers a next state ran the presented command, its configuration in force. -/
theorem effect_of_step (h : step s = .next t) : Effect s.accept s.presented.command t := by
  unfold step at h
  split at h
  · cases h
  · exact effect_of_exec h

/-- Settles O44: taking the presented cycle changes no register, and every command keeps the invariant. -/
theorem stepKeepsFrameInvariant : Obligations.StepKeepsFrameInvariant := by
  unfold Obligations.StepKeepsFrameInvariant
  intro s t hs h
  have haccept : FrameInv s.accept := { hs with }
  exact (effect_of_step h).keeps_frameInv haccept

/-- Settles O45: the invariant speaks of no configuration. -/
theorem resetMeetsFrameInvariant : Obligations.ResetMeetsFrameInvariant := by
  unfold Obligations.ResetMeetsFrameInvariant
  intro cfg
  exact frameInv_of_atReset (atReset_reset cfg [] [])

end Sys2Proof.Machine

/-! SUPPORT. Every emitted event is well formed: its range, its codes, its marker's dibits (30_encoding.md R80, R90). -/

namespace Sys2Proof.Machine

variable {s t : State} {i : Instr}

/-- What a consumer may rely on of every event: the range in order, strictly for a byte, no reserved code, and 1 to 3 dibits in a DRIBBLE or FALSE_CARRIER marker. -/
def Event.WellFormed (e : Event) : Prop :=
  e.startIdx ≤ e.endIdx ∧ e.emittable = true ∧ (e.isByteDecoded = true → e.startIdx < e.endIdx) ∧
  ∀ first last detail,
    e = .errorMarker first last .dribble detail ∨ e = .errorMarker first last .falseCarrier detail →
    1 ≤ detail ∧ detail ≤ 3

/-- A well-formed marker: only DRIBBLE and FALSE_CARRIER bound their detail. -/
theorem errorMarker_wellFormed {first last : Index} {kind : MarkerKind} {detail : BitVec 64} (hle : first ≤ last)
    (hk : kind ≠ .collisionExtension)
    (hd : kind = .dribble ∨ kind = .falseCarrier → 1 ≤ detail ∧ detail ≤ 3) :
    (Event.errorMarker first last kind detail).WellFormed := by
  refine ⟨hle, bne_iff_ne.2 hk, Bool.noConfusion, fun _ _ _ he => ?_⟩
  obtain he | he := he <;> cases he <;> exact hd (by simp)

/-- The edge's own events are well formed: the edge before it is earlier. -/
theorem edgeEvents_wellFormed (s : State) (idx : Index) (ctrl : Bool) (dibit : Dibit)
    (hlt : s.haveEdge = true → s.lastEdgeIdx < idx) :
    ∀ e ∈ edgeEvents s idx ctrl dibit, e.WellFormed := by
  intro e he
  simp only [edgeEvents, List.cons_append, List.mem_cons, List.mem_append, List.mem_ite_nil_right,
    List.not_mem_nil, or_false] at he
  obtain rfl | ⟨⟨hedge, -⟩, rfl⟩ | rfl := he
  · simp [Event.WellFormed, Event.startIdx, Event.endIdx, Event.emittable, Event.isByteDecoded]
  · exact errorMarker_wellFormed (BitVec.le_of_lt (hlt hedge)) (by decide) (by simp)
  · simp [Event.WellFormed, Event.startIdx, Event.endIdx, Event.emittable, Event.isByteDecoded]

/-- A buffered dibit count as a marker's detail is 1 to 3. -/
theorem zextDibits_bounds {n : BitVec 2} (h : n ≠ 0) : 1 ≤ zextDibits n ∧ zextDibits n ≤ 3 := by
  unfold zextDibits
  constructor <;> bv_omega

/-- A frame closed with its dibit still counted has one to three left over when its status says DRIBBLE or FALSE_CARRIER (R140). -/
theorem State.accCount_ne_zero_of_statusMarker {cause : CloseCause} {kind : MarkerKind}
    (hd : s.byteCount ≠ 0 ∨ s.accCount ≠ 0) (hm : statusMarker (s.classifyStatus cause) = some kind)
    (hk : kind = .dribble ∨ kind = .falseCarrier) : s.accCount ≠ 0 := by
  cases cause with
  | eos =>
    cases hm
    simp at hk
  | deassert =>
    simp only [State.classifyStatus] at hm
    split at hm
    · exact hd.resolve_left (not_not_intro ‹_›)
    · split at hm
      · cases hm
      · assumption

/-- No status is marked with the reserved kind (R190). -/
theorem statusMarker_ne_collision (status : FrameStatus) : statusMarker status ≠ some .collisionExtension := by
  cases status <;> decide

/-- No close has the reserved status (R88). -/
theorem State.classifyStatus_ne_inProgress (s : State) (cause : CloseCause) :
    s.classifyStatus cause ≠ .inProgress := by
  cases cause with
  | eos => exact FrameStatus.noConfusion
  | deassert =>
    simp only [State.classifyStatus]
    (repeat' split) <;> exact FrameStatus.noConfusion

/-- The events of a close are well formed: the frame began before its end, and it holds its creating dibit. -/
theorem closeEvents_wellFormed {last : Index} (cause : CloseCause) (hle : s.frameStartIdx ≤ last)
    (hd : s.byteCount ≠ 0 ∨ s.accCount ≠ 0) : ∀ e ∈ closeEvents s last cause, e.WellFormed := by
  intro e he
  simp only [closeEvents, closeMarkerEvents_eq, List.mem_cons, List.mem_append, List.mem_map, Option.mem_toList,
    List.mem_ite_nil_right, List.not_mem_nil, or_false] at he
  obtain rfl | (⟨kind, hm, rfl⟩ | ⟨-, rfl⟩) | ⟨-, rfl⟩ := he
  · exact ⟨hle, bne_iff_ne.2 (s.classifyStatus_ne_inProgress cause), Bool.noConfusion,
      by simp [State.frameEndEvent]⟩
  · refine errorMarker_wellFormed hle ?_ fun hk =>
      zextDibits_bounds (State.accCount_ne_zero_of_statusMarker hd hm hk)
    rintro rfl
    exact statusMarker_ne_collision _ hm
  · exact errorMarker_wellFormed hle (by decide) (by simp)
  · exact errorMarker_wellFormed hle (by decide) (by simp)

/-- Every event of an accepted command is well formed, from a state that meets the strengthened invariant. -/
theorem Effect.out_wellFormed (h : Effect s i t) (hs : FrameInv s) : ∀ e ∈ t.out, e.WellFormed := by
  have edge {idx : Index} (hi : s.indexRefused idx = false) (ctrl : Bool) (dibit : Dibit) :
      ∀ e ∈ edgeEvents s idx ctrl dibit, e.WellFormed := edgeEvents_wellFormed s idx ctrl dibit (hs.edge_lt hi)
  cases h with
  | reset | nop | eosIdle | level => simp [State.reset]
  | eosOpen hf =>
    have ho : s.frameOpen = true := bne_iff_ne.2 hf
    obtain ⟨he, hstart⟩ := hs.openAfterEdge ho
    obtain ⟨-, hedge⟩ := hs.edgeSampled he
    rw [← closeEvents_eos]
    exact closeEvents_wellFormed .eos (Nat.le_trans hstart hedge) (hs.holdsDibit ho)
  | quiet clk dibit idx hi => exact edge hi false dibit
  | pushed clk dibit idx hi => exact edge hi true dibit
  | opened clk dibit idx hi =>
    refine List.forall_mem_append.2 ⟨edge hi true dibit, List.forall_mem_singleton.2 ?_⟩
    simp [Event.WellFormed, Event.startIdx, Event.endIdx, Event.emittable, Event.isByteDecoded]
  | byte clk dibit idx hi he hf ha =>
    obtain ⟨-, hlt⟩ := hs.accFirst_lt hi hf (by simp [ha])
    refine List.forall_mem_append.2 ⟨edge hi true dibit, List.forall_mem_singleton.2 ?_⟩
    exact ⟨BitVec.le_of_lt hlt, rfl, fun _ => hlt, by simp⟩
  | closed clk dibit idx hi he hf =>
    rw [← closeEvents_deassert]
    exact List.forall_mem_append.2 ⟨edge hi false dibit,
      closeEvents_wellFormed .deassert (hs.start_le hi hf) (hs.holdsDibit (State.frameOpen_of hf))⟩

/-- Settles O27: the invariant orders the indices that each event's range takes from the registers. -/
theorem emittedEventsAreWellFormed : Obligations.EmittedEventsAreWellFormed := by
  unfold Obligations.EmittedEventsAreWellFormed
  intro i s t hs h
  exact (effect_of_exec h).out_wellFormed hs

end Sys2Proof.Machine

/-! SUPPORT. The command word: its hex ranges, and that a command's own word decodes to it (30_encoding.md R71 to R77). -/

namespace Sys2Proof

/-- Each row of 30_encoding.md R72 is one range of words (R77). -/
theorem row_takes_iff_range (w : CommandWord) :
    (nopRow.takes w = true ↔ w.toNat ≤ 0x1F) ∧
    (sampleRow.takes w = true ↔ 0x20 ≤ w.toNat ∧ w.toNat ≤ 0x2F) ∧
    (eosRow.takes w = true ↔ 0x30 ≤ w.toNat ∧ w.toNat ≤ 0x3F) ∧
    (resetRow.takes w = true ↔ 0x40 ≤ w.toNat) := by
  revert w
  decide

/-- The fields of SAMPLE's canonical word are its operands (R74). -/
theorem encodeWord_sample_fields (clk ctrl : Bool) (dibit : Dibit) (idx : Index) :
    clkField (encodeWord (.sample clk ctrl dibit idx)) = clk ∧
    ctrlField (encodeWord (.sample clk ctrl dibit idx)) = ctrl ∧
    dibitField (encodeWord (.sample clk ctrl dibit idx)) = dibit := by
  simp only [encodeWord]
  revert clk ctrl dibit
  decide

/-- A command's canonical word is one of its row's. -/
theorem row_takes_encodeWord {i : Instr} (h : Laws.TableRow.Statement i) :
    (Laws.TableRow.row i).takes (encodeWord i) = true := by
  unfold Laws.TableRow.Statement matchingRow at h
  exact List.find?_some (p := fun r : CommandRow => r.takes (encodeWord i)) h

end Sys2Proof

namespace Sys2Proof.Machine

/-- Settles O35: each command's word is one of its own row's, whose words decode to it. -/
theorem decodeOfEncode : Obligations.DecodeOfEncode := by
  unfold Obligations.DecodeOfEncode
  intro i
  cases i with
  | reset => exact decode_of_resetRow (row_takes_encodeWord Laws.TableRow.reset) _
  | nop => exact decode_of_nopRow (row_takes_encodeWord Laws.TableRow.nop) _
  | sample clk ctrl dibit idx =>
    have htakes := row_takes_encodeWord (Laws.TableRow.sample clk ctrl dibit idx)
    obtain ⟨hclk, hctrl, hdibit⟩ := encodeWord_sample_fields clk ctrl dibit idx
    simp only [encode, decode_of_sampleRow htakes, hclk, hctrl, hdibit, encodeIdx]
  | eos => exact decode_of_eosRow (row_takes_encodeWord Laws.TableRow.eos) _

/-- Settles O33: the row that takes a word decides both its command and its range. -/
theorem commandWordRanges : Obligations.CommandWordRanges := by
  unfold Obligations.CommandWordRanges
  intro w inIdx
  obtain ⟨hnop, hsample, heos, hreset⟩ := row_takes_iff_range w
  obtain h | h | h | h := some_row_takes w
  · have := hreset.1 h
    simp [decode_of_resetRow h]
    omega
  · have := hnop.1 h
    simp [decode_of_nopRow h]
    omega
  · have := hsample.1 h
    simp [decode_of_sampleRow h]
    omega
  · have := heos.1 h
    simp [decode_of_eosRow h]
    omega

/-- Settles O34: the decoder on ten closed words. -/
theorem writtenOutWordsDecode : Obligations.WrittenOutWordsDecode := by
  unfold Obligations.WrittenOutWordsDecode
  decide

end Sys2Proof.Machine

/-! SUPPORT. The command port (30_encoding.md R70, R71): the presented command, and when a change of configuration refuses a cycle. -/

namespace Sys2Proof.Machine

variable {s : State}

/-- The word that a port cycle drives is the one it was made from. -/
theorem PortCycle.word_ofWord (w : CommandWord) (inIdx : Index) (cfg : Config) :
    (PortCycle.ofWord w inIdx cfg).word = w := by
  have hjoin : ∀ w : CommandWord, BitVec.ofBool (w.getLsbD 6) ++ w.extractLsb' 0 6 = w := by decide
  exact hjoin w

/-- Presenting a command drives that command. -/
theorem PortCycle.command_present (cfg : Config) (i : Instr) : (PortCycle.present cfg i).command = i := by
  rw [PortCycle.command, PortCycle.present, PortCycle.word_ofWord]
  exact decodeOfEncode i

/-- A cycle whose configuration is held, or that resets, runs its command under its configuration. -/
theorem step_of_input {c : PortCycle} {rest : List PortCycle} (hin : s.input = c :: rest)
    (hcfg : c.rst = true ∨ c.cfg = s.cfg) : step s = exec c.command { s with input := rest, cfg := c.cfg } := by
  have hp : s.presented = c := by simp [State.presented, hin]
  have hheld : s.configurationChanged = false := by
    obtain hrst | hcfg := hcfg
    · simp [State.configurationChanged, hp, hrst]
    · simp [State.configurationChanged, hp, hcfg]
  simp [step, hheld, hp, State.accept, hin]

/-- The refusal test of 10_state.md R34: a cycle with `rst = 0` drives another configuration than the one in force. -/
theorem State.configurationChanged_iff :
    s.configurationChanged = true ↔ ∃ c rest, s.input = c :: rest ∧ c.rst = false ∧ c.cfg ≠ s.cfg := by
  cases hin : s.input with
  | nil => simp [State.configurationChanged, State.presented, hin, PortCycle.idle]
  | cons c rest => simp [State.configurationChanged, State.presented, hin]

/-- No command answers the configuration's refusal. -/
theorem exec_ne_configurationChanged (i : Instr) (s : State) : exec i s ≠ .refused .configurationChanged := by
  intro h
  obtain ⟨t, hr⟩ | ⟨_, _, _, _, -, -, hr⟩ | ⟨_, _, _, _, -, -, -, -, hr⟩ := exec_stops i s <;>
    cases h.symm.trans hr

/-- Settles O40: the presented word is decoded once, and its command runs. -/
theorem stepRunsThePresentedCommand : Obligations.StepRunsThePresentedCommand := by
  unfold Obligations.StepRunsThePresentedCommand
  intro s c rest i hin hcfg hdecode
  rw [step_of_input hin hcfg, PortCycle.command, hdecode]

/-- Settles O41: the idle port's word is one of NOP's, and it holds the configuration. -/
theorem idlePortIsANop : Obligations.IdlePortIsANop := by
  unfold Obligations.IdlePortIsANop
  intro s hin
  have hp : s.presented = PortCycle.idle s.cfg := by simp [State.presented, hin]
  have htakes : nopRow.takes (BitVec.ofBool false ++ 0#6) = true := by decide
  have hcommand : (PortCycle.idle s.cfg).command = .nop := decode_of_nopRow htakes 0
  have hheld : s.configurationChanged = false := by simp [State.configurationChanged, hp, PortCycle.idle]
  have haccept : s.accept = s := by
    cases s
    cases hin
    rfl
  rw [step, hheld, hp, hcommand, haccept]
  exact exec_of_effect .nop

/-- Settles O42: the step tests the change first, and no command answers that refusal. -/
theorem configurationChangeRefused : Obligations.ConfigurationChangeRefused := by
  unfold Obligations.ConfigurationChangeRefused
  intro s
  rw [← State.configurationChanged_iff, step]
  split
  case isTrue hchanged => simp [hchanged]
  case isFalse hheld => simp [hheld, exec_ne_configurationChanged]

/-- One cycle of a host that presents a list of commands: the first command runs, the others stay presented. -/
theorem step_withCommands (s : State) (i : Instr) (p : List Instr) :
    step (s.withCommands (i :: p)) = mapNext (fun t => t.withCommands p) (exec i s) := by
  have hstep : step (s.withCommands (i :: p)) = exec i { s with input := p.map (PortCycle.present s.cfg) } := by
    rw [step_of_input (s := s.withCommands (i :: p)) rfl (.inr rfl), PortCycle.command_present]
    rfl
  rw [hstep, exec_setInput]
  cases hexec : exec i s with
  | next t =>
    obtain ⟨hcfg, -⟩ := (effect_of_exec hexec).frame
    simp [State.withCommands, hcfg]
  | fault r => rfl
  | refused r => rfl

/-- Settles O43, by induction on the commands: each cycle runs the first command and leaves the others presented. -/
theorem portCyclesRunTheCommands : Obligations.PortCyclesRunTheCommands := by
  unfold Obligations.PortCyclesRunTheCommands
  intro s p
  induction p generalizing s with
  | nil => rfl
  | cons i p ih =>
    simp only [List.length_cons, runCycles, step_withCommands, runCommands]
    cases exec i s with
    | next t =>
      simp only [mapNext_next, ih, mapNext_mapNext]
      rfl
    | fault r => rfl
    | refused r => rfl

end Sys2Proof.Machine

/-! SUPPORT. The 260-bit event word (30_encoding.md R80 to R90), field by field. -/

namespace Sys2Proof

/-- Nothing in a concatenation above a place that its high part has nothing above. -/
theorem append_shift_eq_zero {m n k : Nat} {x : BitVec m} (y : BitVec n) (h : x >>> k = 0#m) :
    (x ++ y) >>> (n + k) = 0#(m + n) := by
  apply BitVec.eq_of_getLsbD_eq
  intro j _
  have hbit : x.getLsbD (k + j) = false := by simpa using congrArg (fun z => z.getLsbD j) h
  rw [BitVec.getLsbD_ushiftRight, Nat.add_assoc, bit_high, hbit, BitVec.getLsbD_zero]

/-- The lowest bit above a word is the one put there. -/
theorem bit_ofBool_append {m n : Nat} (x : BitVec m) (b : Bool) (y : BitVec n) :
    ((x ++ BitVec.ofBool b) ++ y).getLsbD n = b :=
  (bit_high _ y 0).trans (by rw [BitVec.getLsbD_append]; simp)

end Sys2Proof

namespace Sys2Proof.Machine

/-! The four parts of the word (R80). -/

@[simp] theorem Event.encode_type (e : Event) : (e.encode.extractLsb' 0 4 : BitVec 4) = e.typeCode :=
  extract_low _ _

@[simp] theorem Event.encode_start (e : Event) : (e.encode.extractLsb' 4 64 : Index) = e.startIdx :=
  (extract_high _ _ 0 64).trans (extract_low _ _)

@[simp] theorem Event.encode_stop (e : Event) : (e.encode.extractLsb' 68 64 : Index) = e.endIdx :=
  (extract_high _ _ 64 64).trans ((extract_high _ _ 0 64).trans (extract_low _ _))

@[simp] theorem Event.encode_payload (e : Event) : (e.encode.extractLsb' 132 128 : BitVec 128) = e.payload :=
  (extract_high _ _ 128 128).trans ((extract_high _ _ 64 128).trans ((extract_high _ _ 0 128).trans (extract_all _)))

/-- SymbolDecoded's payload (R83). -/
theorem Event.symbolDecoded_payload (idx : Index) (dibit : Dibit) (ctrl : Bool) :
    let p := (Event.symbolDecoded idx dibit ctrl).payload
    p.extractLsb' 0 2 = dibit ∧ p.getLsbD 2 = ctrl ∧ p >>> 3 = 0 :=
  ⟨extract_low _ _, bit_ofBool_append _ ctrl dibit,
    append_shift_eq_zero dibit (zero_append_shift (BitVec.ofBool ctrl))⟩

/-- ByteDecoded's payload (R84). -/
theorem Event.byteDecoded_payload (first last : Index) (value : Byte) (frameRef : Index) :
    let p := (Event.byteDecoded first last value frameRef).payload
    p.extractLsb' 0 8 = value ∧ p.extractLsb' 8 64 = frameRef ∧ p >>> 72 = 0 :=
  ⟨extract_low _ _, (extract_high _ _ 0 64).trans (extract_low _ _),
    append_shift_eq_zero value (zero_append_shift frameRef)⟩

/-- FrameEnd's payload (R86). -/
theorem Event.frameEnd_payload (first last : Index) (status : FrameStatus) (resCount : BitVec 2)
    (resBits : BitVec 6) (byteCount bodyCount : Count) (sfdSeen : Bool) :
    let p := (Event.frameEnd first last status resCount resBits byteCount bodyCount sfdSeen).payload
    p.extractLsb' 0 3 = status.code ∧ p.extractLsb' 3 2 = resCount ∧ p.extractLsb' 5 6 = resBits ∧
    p.extractLsb' 11 32 = byteCount ∧ p.extractLsb' 43 32 = bodyCount ∧ p.getLsbD 75 = sfdSeen ∧ p >>> 76 = 0 := by
  refine ⟨extract_low _ _, ?resCount, ?resBits, ?byteCount, ?bodyCount, ?sfdSeen, ?unassigned⟩
  case resCount => exact (extract_high _ _ 0 2).trans (extract_low _ _)
  case resBits => exact (extract_high _ _ 2 6).trans ((extract_high _ _ 0 6).trans (extract_low _ _))
  case byteCount =>
    exact (extract_high _ _ 8 32).trans ((extract_high _ _ 6 32).trans
      ((extract_high _ _ 0 32).trans (extract_low _ _)))
  case bodyCount =>
    exact (extract_high _ _ 40 32).trans ((extract_high _ _ 38 32).trans ((extract_high _ _ 32 32).trans
      ((extract_high _ _ 0 32).trans (extract_low _ _))))
  case sfdSeen =>
    exact (bit_high _ _ 72).trans ((bit_high _ _ 70).trans ((bit_high _ _ 64).trans
      ((bit_high _ _ 32).trans (bit_ofBool_append _ sfdSeen bodyCount))))
  case unassigned =>
    exact append_shift_eq_zero status.code (append_shift_eq_zero resCount (append_shift_eq_zero resBits
      (append_shift_eq_zero byteCount (append_shift_eq_zero bodyCount (zero_append_shift (BitVec.ofBool sfdSeen))))))

/-- ErrorMarker's payload (R87). -/
theorem Event.errorMarker_payload (first last : Index) (kind : MarkerKind) (detail : BitVec 64) :
    let p := (Event.errorMarker first last kind detail).payload
    p.extractLsb' 0 4 = kind.code ∧ p.extractLsb' 4 64 = detail ∧ p >>> 68 = 0 :=
  ⟨extract_low _ _, (extract_high _ _ 0 64).trans (extract_low _ _),
    append_shift_eq_zero kind.code (zero_append_shift detail)⟩

/-- Settles O36, by the four parts of the word and each event's payload. -/
theorem eventWordFields : Obligations.EventWordFields := by
  unfold Obligations.EventWordFields
  refine ⟨by decide, by decide, fun e => ?_⟩
  simp only [Event.encode_type, Event.encode_start, Event.encode_stop, Event.encode_payload]
  cases e with
  | clockEdge | frameStart => exact ⟨rfl, rfl, rfl, rfl⟩
  | symbolDecoded => exact ⟨rfl, rfl, rfl, Event.symbolDecoded_payload _ _ _⟩
  | byteDecoded => exact ⟨rfl, rfl, rfl, Event.byteDecoded_payload _ _ _ _⟩
  | frameEnd => exact ⟨rfl, rfl, rfl, Event.frameEnd_payload _ _ _ _ _ _ _ _⟩
  | errorMarker => exact ⟨rfl, rfl, rfl, Event.errorMarker_payload _ _ _ _⟩

/-- A status that may be emitted is read back from its code (R88). -/
theorem FrameStatus.ofCode_code {status : FrameStatus} (h : status ≠ .inProgress) :
    FrameStatus.ofCode status.code = some status := by
  cases status with
  | inProgress => exact absurd rfl h
  | completeAligned | completeUnaligned | falseCarrier | truncated => rfl

/-- A kind that may be emitted is read back from its code (R89). -/
theorem MarkerKind.ofCode_code {kind : MarkerKind} (h : kind ≠ .collisionExtension) :
    MarkerKind.ofCode kind.code = some kind := by
  cases kind with
  | collisionExtension => exact absurd rfl h
  | falseCarrier | missingSfd | dribble | truncated | unexpectedEdgeSpacing | runtFrame => rfl

/-- The fields of an emittable event's word are the event's. -/
theorem Event.fields_encode {e : Event} (h : e.emittable = true) : Event.fields e.encode = some e := by
  simp only [Event.fields, Event.encode_type, Event.encode_start, Event.encode_stop, Event.encode_payload]
  cases e with
  | clockEdge | frameStart => rfl
  | symbolDecoded idx dibit ctrl =>
    obtain ⟨hdibit, hctrl, -⟩ := Event.symbolDecoded_payload idx dibit ctrl
    rw [hdibit, hctrl]
    rfl
  | byteDecoded first last value frameRef =>
    obtain ⟨hvalue, href, -⟩ := Event.byteDecoded_payload first last value frameRef
    rw [hvalue, href]
    rfl
  | frameEnd first last status resCount resBits byteCount bodyCount sfdSeen =>
    obtain ⟨hstatus, hcount, hbits, hbyte, hbody, hsfd, -⟩ :=
      Event.frameEnd_payload first last status resCount resBits byteCount bodyCount sfdSeen
    rw [hstatus, hcount, hbits, hbyte, hbody, hsfd, FrameStatus.ofCode_code (bne_iff_ne.1 h)]
    rfl
  | errorMarker first last kind detail =>
    obtain ⟨hkind, hdetail, -⟩ := Event.errorMarker_payload first last kind detail
    rw [hkind, hdetail, MarkerKind.ofCode_code (bne_iff_ne.1 h)]
    rfl

/-- Settles O37: the fields give the event, whose word is the one read. -/
theorem eventWordRoundTrip : Obligations.EventWordRoundTrip := by
  unfold Obligations.EventWordRoundTrip
  intro e h
  simp [Event.decodeWord, Event.fields_encode h]

/-- A word whose fields are no event's is no event's. -/
theorem Event.decodeWord_of_fields {ev : EventWord} (h : Event.fields ev = none) : Event.decodeWord ev = none := by
  simp [Event.decodeWord, h]

/-- The status codes that no FrameEnd carries. -/
theorem FrameStatus.ofCode_reserved : ∀ c : BitVec 3, c = 0 ∨ 5 ≤ c → FrameStatus.ofCode c = none := by
  decide

/-- The kind codes that no ErrorMarker carries. -/
theorem MarkerKind.ofCode_reserved : ∀ c : BitVec 4, c = 0 ∨ 7 ≤ c → MarkerKind.ofCode c = none := by
  decide

/-- Settles O38: the search for a type, a status or a kind ends without one. -/
theorem reservedEventCodesAreNoEvents : Obligations.ReservedEventCodesAreNoEvents := by
  unfold Obligations.ReservedEventCodesAreNoEvents
  intro ev
  refine ⟨fun htype => ?type, fun htype hstatus => ?status, fun htype hkind => ?kind⟩ <;>
    apply Event.decodeWord_of_fields
  case type =>
    have hreserved : ∀ c : BitVec 4, 6 ≤ c → c ≠ 0 ∧ c ≠ 1 ∧ c ≠ 2 ∧ c ≠ 3 ∧ c ≠ 4 ∧ c ≠ 5 := by decide
    obtain ⟨h0, h1, h2, h3, h4, h5⟩ := hreserved _ htype
    simp only [Event.fields, if_neg h0, if_neg h1, if_neg h2, if_neg h3, if_neg h4, if_neg h5]
  case status =>
    have hnone : FrameStatus.ofCode ((ev.extractLsb' 132 128).extractLsb' 0 3) = none := by
      rw [extract_extract ev 132 128 0 3 (by decide)]
      exact FrameStatus.ofCode_reserved _ hstatus
    simp [Event.fields, htype, hnone]
  case kind =>
    have hnone : MarkerKind.ofCode ((ev.extractLsb' 132 128).extractLsb' 0 4) = none := by
      rw [extract_extract ev 132 128 0 4 (by decide)]
      exact MarkerKind.ofCode_reserved _ hkind
    simp [Event.fields, htype, hnone]

end Sys2Proof.Machine

/-! SUPPORT. The text of a command (30_encoding.md R91), read back token by token. -/

namespace Sys2Proof.Machine

/-- The digits of a number are decimal digits. -/
theorem isDigit_of_mem_printNat {n : Nat} {c : Char} (h : c ∈ printNat n) : c.isDigit = true :=
  Nat.isDigit_of_mem_toDigits (by decide) (by decide) h

/-- A number's text is one token. -/
theorem isToken_printNat (n : Nat) : isToken (printNat n) := by
  refine ⟨Nat.toDigits_ne_nil, fun c hc => ?_⟩
  have hdigit := isDigit_of_mem_printNat hc
  constructor <;> rintro rfl <;> exact absurd hdigit (by decide)

/-- A number's text is read in decimal: no `x` follows its first digit. -/
theorem readNumber_printNat (n : Nat) : readNumber (printNat n) = some n := by
  have hdigits : readDigits 10 0 (printNat n) = some n := readDigits_printNat n
  have hx : 'x' ∉ printNat n := fun h => absurd (isDigit_of_mem_printNat h) (by decide)
  have hne : printNat n ≠ [] := Nat.toDigits_ne_nil
  unfold readNumber
  split
  · contradiction
  · simp_all
  · simp_all
  · exact hdigits

/-- An index's text is read back as that index. -/
theorem readWord_printNat {w : Nat} (x : BitVec w) : readWord w (printNat x.toNat) = some x := by
  simp [readWord, readNumber_printNat, x.isLt]

/-- The characters of a bit are neither blank nor a comment's. -/
theorem bitChar_ne (b : Bool) : bitChar b ≠ ' ' ∧ bitChar b ≠ '\t' ∧ bitChar b ≠ ';' := by
  cases b <;> decide

/-- A bit's text is one token, read back as that bit. -/
theorem bitChar_reads (b : Bool) : readBit [bitChar b] = some b ∧ isToken [bitChar b] :=
  ⟨by cases b <;> rfl, by simp [isToken, bitChar_ne]⟩

/-- A dibit's text is one token, read back as that dibit. -/
theorem printDibit_reads (d : Dibit) : readDibit (printDibit d) = some d ∧ isToken (printDibit d) := by
  refine ⟨?_, by simp [isToken, printDibit, bitChar_ne]⟩
  revert d
  decide

/-- SAMPLE's text as its tokens with a blank between each two. -/
theorem printCommand_sample (clk ctrl : Bool) (dibit : Dibit) (idx : Index) :
    printCommand (.sample clk ctrl dibit idx) =
      ['S'] ++ ' ' :: (printNat idx.toNat ++ ' ' :: ([bitChar clk] ++ ' ' :: ([bitChar ctrl] ++ ' ' ::
        printDibit dibit))) := by
  simp [printCommand]

/-- The tokens of SAMPLE's text are its five. -/
theorem tokens_printCommand_sample (clk ctrl : Bool) (dibit : Dibit) (idx : Index) :
    tokens (printCommand (.sample clk ctrl dibit idx)) =
      [['S'], printNat idx.toNat, [bitChar clk], [bitChar ctrl], printDibit dibit] := by
  have hdibit := tokens_single _ (printDibit_reads dibit).2
  have hctrl := tokens_append _ _ (bitChar_reads ctrl).2 (hdibit ▸ List.cons_ne_nil _ _)
  have hclk := tokens_append _ _ (bitChar_reads clk).2 (hctrl ▸ List.cons_ne_nil _ _)
  have hidx := tokens_append _ _ (isToken_printNat idx.toNat) (hclk ▸ List.cons_ne_nil _ _)
  have hop := tokens_append ['S'] _ (by simp [isToken]) (hidx ▸ List.cons_ne_nil _ _)
  rw [printCommand_sample, hop, hidx, hclk, hctrl, hdibit]

/-- A line without a semicolon has no comment to drop. -/
theorem dropComment_eq_self {cs : List Char} (h : ∀ c ∈ cs, c ≠ ';') : dropComment cs = cs :=
  List.takeWhile_eq_self_iff.2 fun c hc => bne_iff_ne.2 (h c hc)

/-- SAMPLE's text has no comment. -/
theorem dropComment_printCommand_sample (clk ctrl : Bool) (dibit : Dibit) (idx : Index) :
    dropComment (printCommand (.sample clk ctrl dibit idx)) = printCommand (.sample clk ctrl dibit idx) := by
  have hidx : ∀ c ∈ printNat idx.toNat, c ≠ ';' := by
    rintro c hc rfl
    exact absurd (isDigit_of_mem_printNat hc) (by decide)
  refine dropComment_eq_self ?_
  simpa [printCommand, printDibit, bitChar_ne, or_imp, forall_and] using hidx

/-- Settles O39: SAMPLE's five tokens read back one by one; the other commands are closed texts. -/
theorem commandTextReadsBack : Obligations.CommandTextReadsBack := by
  unfold Obligations.CommandTextReadsBack
  intro i
  cases i with
  | reset => decide
  | nop => decide
  | sample clk ctrl dibit idx =>
    rw [assembleLine, dropComment_printCommand_sample, tokens_printCommand_sample]
    have hop : ['S'] = chars "S" := by decide
    simp only [assembleTokens, if_pos hop, readWord_printNat, (bitChar_reads clk).1, (bitChar_reads ctrl).1,
      (printDibit_reads dibit).1]
  | eos => decide

end Sys2Proof.Machine

/-! SUPPORT. The event list of one command: its symbol, its canonical order and its length (30_encoding.md R79, 43_error_classifier.md R186). -/

namespace Sys2Proof.Machine

variable {s t : State} {i : Instr} {clk ctrl : Bool} {dibit : Dibit} {idx : Index}

/-- An edge's own events hold its one SymbolDecoded. -/
theorem edgeEvents_symbols (s : State) (idx : Index) (ctrl : Bool) (dibit : Dibit) :
    (edgeEvents s idx ctrl dibit).filter Event.isSymbolDecoded = [.symbolDecoded idx dibit ctrl] := by
  unfold edgeEvents
  split <;> rfl

/-- SymbolDecoded's place in the canonical order. -/
theorem Event.rank_of_isSymbolDecoded {e : Event} (h : e.isSymbolDecoded = true) : e.rank = 2 := by
  cases e with
  | symbolDecoded => rfl
  | clockEdge | byteDecoded | frameStart | frameEnd | errorMarker => cases h

/-- Settles O14: an edge's own events hold the symbol, and the FrameAssembler's come after its place. -/
theorem oneSymbolPerEdge : Obligations.OneSymbolPerEdge := by
  unfold Obligations.OneSymbolPerEdge
  intro s clk ctrl dibit idx t h
  have heff := effect_of_exec h
  split
  case isTrue hedge =>
    obtain ⟨es, hout, hes⟩ := heff.sample_out_of_edge ((s.isEdge_iff clk).2 hedge)
    have hlater : es.filter Event.isSymbolDecoded = [] := List.filter_eq_nil_iff.2 fun e he hsym => by
      have hplace := Event.rank_of_isSymbolDecoded hsym
      have := hes e he
      omega
    rw [hout, List.filter_append, edgeEvents_symbols, hlater, List.append_nil]
  case isFalse hlevel => rw [heff.sample_out_of_level (State.level_of hlevel), List.filter_nil]

/-- A list of events in the canonical order. -/
def Ordered (es : List Event) : Prop := es.Pairwise fun a b => a.rank < b.rank

/-- The edge's own events stand in order. -/
theorem edgeEvents_ordered (s : State) (idx : Index) (ctrl : Bool) (dibit : Dibit) :
    Ordered (edgeEvents s idx ctrl dibit) := by
  unfold edgeEvents
  split <;> simp [Ordered, Event.rank]

/-- The events of a close by deassertion stand in order. -/
theorem deassertEvents_ordered (s : State) (last : Index) : Ordered (deassertEvents s last) := by
  simp only [deassertEvents]
  (repeat' split) <;> simp [Ordered, Event.rank]

/-- The events of a close at the end of the stream stand in order. -/
theorem truncatedEvents_ordered (s : State) : Ordered (truncatedEvents s) := by
  simp only [truncatedEvents]
  split <;> simp [Ordered, Event.rank]

/-- Ordered events of the FrameAssembler keep the order after those of the edge. -/
theorem edgeEvents_append_ordered (s : State) (idx : Index) (ctrl : Bool) (dibit : Dibit) {es : List Event}
    (hes : Ordered es) (hrank : ∀ e ∈ es, 3 ≤ e.rank) : Ordered (edgeEvents s idx ctrl dibit ++ es) :=
  List.pairwise_append.2 ⟨edgeEvents_ordered s idx ctrl dibit, hes, fun a ha b hb =>
    Nat.lt_of_lt_of_le (edgeEvents_rank_lt s idx ctrl dibit a ha) (hrank b hb)⟩

/-- Settles O25, by the order of the lists that each way to a next state writes out. -/
theorem eventsInCanonicalOrder : Obligations.EventsInCanonicalOrder := by
  unfold Obligations.EventsInCanonicalOrder
  intro i s t h
  cases effect_of_exec h with
  | reset | nop | eosIdle | level => exact .nil
  | eosOpen => exact truncatedEvents_ordered s
  | quiet clk dibit idx => exact edgeEvents_ordered s idx false dibit
  | pushed clk dibit idx => exact edgeEvents_ordered s idx true dibit
  | opened clk dibit idx | byte clk dibit idx =>
    exact edgeEvents_append_ordered s idx true dibit (List.pairwise_singleton _ _) (by simp [Event.rank])
  | closed clk dibit idx =>
    exact edgeEvents_append_ordered s idx false dibit (deassertEvents_ordered s idx) (deassertEvents_rank s idx)

/-- Settles O28: an edge shows at least its own two events and no command more than six; EOS shows those of its close. -/
theorem eventCountsPerCommand : Obligations.EventCountsPerCommand := by
  unfold Obligations.EventCountsPerCommand
  intro i s t h
  have heff := effect_of_exec h
  cases i with
  | reset | nop =>
    cases heff
    rfl
  | sample clk ctrl dibit idx =>
    dsimp only
    split
    case isTrue hedge =>
      obtain ⟨es, hout, -⟩ := heff.sample_out_of_edge ((s.isEdge_iff clk).2 hedge)
      refine ⟨?_, heff.out_length_le⟩
      have hown := edgeEvents_length s idx ctrl dibit
      rw [hout, List.length_append]
      omega
    case isFalse hlevel => rw [heff.sample_out_of_level (State.level_of hlevel), List.length_nil]
  | eos =>
    cases heff with
    | eosIdle hf => simp [hf, State.reset]
    | eosOpen hf => simpa only [if_neg hf] using truncatedEvents_length s

/-- A command without edge or close shows no FrameEnd; SAMPLE's is of a close by deassertion at its own index, EOS's of a close at the stream's last index. -/
theorem Effect.frameEnd_cause (h : Effect s i t) {e : Event} (he : e ∈ t.out) (hend : e.isFrameEnd = true) :
    (i = .eos ∧ e = s.frameEndEvent (s.classifyStatus .eos) s.lastIdx) ∨
    (i ≠ .eos ∧ e = s.frameEndEvent (s.classifyStatus .deassert) t.lastIdx) := by
  have hrank := Event.rank_of_isFrameEnd hend
  have edge {idx ctrl dibit} (he : e ∈ edgeEvents s idx ctrl dibit) : False :=
    Nat.ne_of_lt (edgeEvents_rank_lt s idx ctrl dibit e he) hrank
  have close {last cause} (he : e ∈ closeEvents s last cause) :
      e = s.frameEndEvent (s.classifyStatus cause) last :=
    (List.mem_cons.1 he).resolve_right fun hm => Nat.ne_of_gt (closeMarkerEvents_rank _ _ _ _ e hm) hrank
  cases h with
  | reset | nop | eosIdle | level => simp [State.reset] at he
  | eosOpen =>
    rw [← closeEvents_eos] at he
    exact .inl ⟨rfl, close he⟩
  | quiet | pushed => exact (edge he).elim
  | opened | byte =>
    obtain he | he := List.mem_append.1 he
    · exact (edge he).elim
    · cases List.mem_singleton.1 he
      cases hend
  | closed =>
    rw [← closeEvents_deassert] at he
    obtain he | he := List.mem_append.1 he
    · exact (edge he).elim
    · exact .inr ⟨Instr.noConfusion, close he⟩

/-- Settles O21: the FrameEnd is the one its close writes, whose cause is the command. -/
theorem frameEndStatusIsTheFirstMatchingRow : Obligations.FrameEndStatusIsTheFirstMatchingRow := by
  unfold Obligations.FrameEndStatusIsTheFirstMatchingRow
  intro i s t first last status resCount resBits byteCount bodyCount sfdSeen h hmem
  obtain ⟨hi, heq⟩ | ⟨hi, heq⟩ := (effect_of_exec h).frameEnd_cause hmem rfl <;> cases heq
  · simp [hi, State.classifyStatus]
  · simp [hi, State.classifyStatus]

end Sys2Proof.Machine

/-! SUPPORT. The ways in which the FrameAssembler's state changes (42_frame_assembler.md R144). -/

namespace Sys2Proof.Machine

variable {s t : State} {i : Instr}

/-- A frame opens only at an edge with CTRL = 1, and into PREAMBLE (R132). -/
theorem Effect.opens (h : Effect s i t) (hs : s.frameOpen = false) (ht : t.frameOpen = true) :
    t.faState = .preamble ∧
      ∃ dibit idx, i = .sample true true dibit idx ∧ s.havePrev = true ∧ s.prevClk = false := by
  cases h with
  | reset | eosIdle | eosOpen | closed => nomatch ht
  | nop | level | quiet => exact absurd (hs.symm.trans ht) Bool.false_ne_true
  | opened clk dibit idx hi he hf =>
    obtain ⟨hp, hc, rfl⟩ := (s.isEdge_iff clk).1 he
    exact ⟨rfl, dibit, idx, rfl, hp, hc⟩
  | pushed clk dibit idx hi he hf | byte clk dibit idx hi he hf =>
    exact absurd (hs.symm.trans (State.frameOpen_of hf)) Bool.false_ne_true

/-- A frame ends only by RESET, by EOS or at an edge with CTRL = 0 (R137). -/
theorem Effect.ends (h : Effect s i t) (hs : s.frameOpen = true) (ht : t.frameOpen = false) :
    i = .reset ∨ i = .eos ∨
      ∃ dibit idx, i = .sample true false dibit idx ∧ s.havePrev = true ∧ s.prevClk = false := by
  cases h with
  | reset => exact .inl rfl
  | eosIdle | eosOpen => exact .inr (.inl rfl)
  | nop | level | quiet | pushed => exact absurd (ht.symm.trans hs) Bool.false_ne_true
  | opened => nomatch ht
  | byte clk dibit idx hi he hf => exact absurd (ht.symm.trans (byte_keeps_open hf _)) Bool.false_ne_true
  | closed clk dibit idx hi he hf =>
    obtain ⟨hp, hc, rfl⟩ := (s.isEdge_iff clk).1 he
    exact .inr (.inr ⟨dibit, idx, rfl, hp, hc⟩)

/-- IN_FRAME is entered from PREAMBLE only, by the byte 0xD5 (R135). -/
theorem Effect.recognises (h : Effect s i t) (hs : s.faState ≠ .inFrame) (ht : t.faState = .inFrame) :
    s.faState = .preamble ∧ ∃ first last, .byteDecoded first last 0xD5 s.frameStartIdx ∈ t.out := by
  cases h with
  | reset | eosIdle | eosOpen | opened | closed => nomatch ht
  | nop | level | quiet | pushed => exact absurd ht hs
  | byte clk dibit idx hi he hf =>
    have hsfd : assembleByte s.accBits dibit = 0xD5#8 := by
      by_contra hne
      exact hs ((if_neg fun hc => hne hc.2).symm.trans ht)
    exact ⟨hf.resolve_right hs, s.accFirstIdx, idx, List.mem_append_right _ (by simp [hsfd])⟩

/-- IN_FRAME is left only for IDLE. -/
theorem Effect.leaves_inFrame (h : Effect s i t) (hs : s.faState = .inFrame) (ht : t.faState ≠ .inFrame) :
    t.faState = .idle := by
  cases h with
  | reset | eosIdle | eosOpen | closed => rfl
  | nop | level | quiet | pushed => exact absurd hs ht
  | opened clk dibit idx hi he hf => cases hf.symm.trans hs
  | byte => exact absurd ((if_neg fun hc => hc.1 hs).trans hs) ht

/-- Settles O29, by the four kinds of change. -/
theorem frameStateChangesOnlyAsStated : Obligations.FrameStateChangesOnlyAsStated := by
  unfold Obligations.FrameStateChangesOnlyAsStated
  intro i s t h
  have heff := effect_of_exec h
  exact ⟨heff.opens, heff.ends, heff.recognises, heff.leaves_inFrame⟩

end Sys2Proof.Machine

/-! SUPPORT. The whole next state of RESET, NOP, EOS and of the simpler ways of SAMPLE. -/

namespace Sys2Proof.Machine

/-- Settles O2: RESET has one way to a next state. -/
theorem resetCommandCompletes : Obligations.ResetCommandCompletes := by
  unfold Obligations.ResetCommandCompletes
  intro s
  exact exec_of_effect .reset

/-- Settles O3: the reset state holds the reset registers and an empty port. -/
theorem resetStateRegisters : Obligations.ResetStateRegisters := by
  unfold Obligations.ResetStateRegisters
  exact ⟨atReset_reset Config.ref [] [], rfl, rfl, rfl⟩

/-- Settles O4: NOP has one way to a next state. -/
theorem nopChangesOnlyThePort : Obligations.NopChangesOnlyThePort := by
  unfold Obligations.NopChangesOnlyThePort
  intro s
  exact exec_of_effect .nop

/-- Settles O5: EOS has one way without a frame to close and one with it. -/
theorem eosClosesAndReinitialises : Obligations.EosClosesAndReinitialises := by
  unfold Obligations.EosClosesAndReinitialises
  intro s
  by_cases hf : s.faState = .idle
  · simpa only [if_pos hf, State.reset] using exec_of_effect (.eosIdle hf)
  · simpa only [if_neg hf, State.reset, truncatedEvents, decide_eq_false_iff_not, ne_eq] using
      exec_of_effect (.eosOpen hf)

/-- Settles O9: the index and the edge are accepted, and FrameStep finds CLOSING. -/
theorem edgeInClosingStops : Obligations.EdgeInClosingStops := by
  unfold Obligations.EdgeInClosingStops
  intro s ctrl dibit idx hf hp hc hlt
  exact execSample_closing ctrl dibit (State.accepted_of_lt hlt) (State.edge_of hp hc) hf

/-- Settles O13: the SAMPLE takes the way of a level. -/
theorem levelSampleWritesOnlyPriorState : Obligations.LevelSampleWritesOnlyPriorState := by
  unfold Obligations.LevelSampleWritesOnlyPriorState
  intro s clk ctrl dibit idx hi he
  exact exec_of_effect (.level clk ctrl dibit idx (State.accepted_of hi) (State.level_of he))

/-- A dibit written to its place of the accumulator is read back there, and the other places keep theirs (10_state.md R27). -/
theorem setDibit_get (bits : BitVec 6) {k : BitVec 2} (dibit : Dibit) (hk : k ≠ 3) (j : Nat) (hj : j < 3) :
    (setDibit bits k dibit).extractLsb' (2 * j) 2 =
      if j = k.toNat then dibit else bits.extractLsb' (2 * j) 2 := by
  have hk3 : k.toNat < 3 := by bv_omega
  generalize hm : k.toNat = m at hk3
  refine BitVec.eq_of_getLsbD_eq fun i hi => ?_
  simp only [setDibit, hm]
  -- With both places and the bit fixed, the mask is a closed word.
  interval_cases j <;> interval_cases m <;> interval_cases i <;> simp

/-- Settles O18: the SAMPLE buffers its dibit. -/
theorem dibitIsBuffered : Obligations.DibitIsBuffered := by
  unfold Obligations.DibitIsBuffered
  intro s dibit idx hp hc hlt hf ha
  refine ⟨setDibit s.accBits s.accCount dibit, ?next, setDibit_get s.accBits dibit ha⟩
  case next =>
    simpa only [hp] using
      exec_of_effect (.pushed true dibit idx (State.accepted_of_lt hlt) (State.edge_of hp hc) hf ha)

/-- Settles O30: no way to a next state writes them. -/
theorem commandsLeaveConfigurationAndInput : Obligations.CommandsLeaveConfigurationAndInput := by
  unfold Obligations.CommandsLeaveConfigurationAndInput
  intro i s t h
  exact (effect_of_exec h).frame

end Sys2Proof.Machine

/-! SUPPORT. The ClockEdge events of a run against the transitions its commands show (40_edge_detector.md R104). -/

namespace Sys2Proof.Machine

variable {s t : State} {i : Instr}

/-- An accepted SAMPLE shows one ClockEdge at an edge and none otherwise. -/
theorem Effect.sample_clockEdges {clk ctrl : Bool} {dibit : Dibit} {idx : Index}
    (h : Effect s (.sample clk ctrl dibit idx) t) :
    t.out.countP Event.isClockEdge = if s.isEdge clk = true then 1 else 0 := by
  split
  case isTrue hedge =>
    obtain ⟨es, hout, hes⟩ := h.sample_clockEdge_first hedge
    have hlater : es.countP Event.isClockEdge = 0 := List.countP_eq_zero.2 fun e he => by simp [hes e he]
    rw [hout, List.countP_cons_of_pos rfl, hlater]
  case isFalse hlevel => rw [h.sample_out_of_level (Bool.eq_false_iff.2 hlevel), List.countP_nil]

/-- A close at the end of the stream shows no ClockEdge. -/
theorem truncatedEvents_clockEdges (s : State) : (truncatedEvents s).countP Event.isClockEdge = 0 := by
  simp only [truncatedEvents]
  split <;> rfl

/-- The first command's transition is its ClockEdge. -/
theorem clockTransitions_cons (h : Effect s i t) (p : List Instr) :
    clockTransitions s.lastClk (i :: p) = t.out.countP Event.isClockEdge + clockTransitions t.lastClk p := by
  cases i with
  | reset | nop =>
    cases h
    exact (Nat.zero_add _).symm
  | sample clk ctrl dibit idx =>
    rw [h.sample_clockEdges, h.lastClk_sample]
    simp only [clockTransitions, State.lastClk_edge]
  | eos =>
    cases h with
    | eosIdle => exact (Nat.zero_add _).symm
    | eosOpen =>
      rw [truncatedEvents_clockEdges, Nat.zero_add]
      rfl

/-- Settles O48, by induction on the run: each command adds its own transition on both sides. -/
theorem clockEdgesCountTransitions : Obligations.ClockEdgesCountTransitions := by
  unfold Obligations.ClockEdgesCountTransitions
  intro s p
  refine runCommands_induction
    (motive := fun s p _ evs => evs.countP Event.isClockEdge = clockTransitions s.lastClk p) ?nil ?cons p s
  case nil => exact fun s => rfl
  case cons =>
    intro s i u p t after he _ ih
    rw [List.countP_append, ih, clockTransitions_cons he]

/-- A command other than EOS that shows no ClockEdge shows nothing. -/
theorem Effect.out_of_no_clockEdge (h : Effect s i t) (hi : i ≠ .eos)
    (hcount : t.out.countP Event.isClockEdge = 0) : t.out = [] := by
  cases i with
  | reset | nop =>
    cases h
    rfl
  | sample clk ctrl dibit idx =>
    rw [h.sample_clockEdges] at hcount
    exact h.sample_out_of_level (Bool.eq_false_iff.2 fun hedge => by simp [hedge] at hcount)
  | eos => exact absurd rfl hi

/-- Settles O58, by induction on the run: a command without transition shows nothing. -/
theorem stuckClockYieldsNothing : Obligations.StuckClockYieldsNothing := by
  unfold Obligations.StuckClockYieldsNothing
  intro s p
  refine runCommands_induction
    (motive := fun s p _ evs => clockTransitions s.lastClk p = 0 → .eos ∉ p → evs = []) ?nil ?cons p s
  case nil => exact fun s _ _ => rfl
  case cons =>
    intro s i u p t after he _ ih hstuck heos
    rw [clockTransitions_cons he, Nat.add_eq_zero_iff] at hstuck
    obtain ⟨hcount, hstuck⟩ := hstuck
    rw [List.mem_cons, not_or] at heos
    obtain ⟨hi, hp⟩ := heos
    rw [he.out_of_no_clockEdge (Ne.symm hi) hcount, ih hstuck hp, List.append_nil]

end Sys2Proof.Machine

/-! SUPPORT. The open frame over a run: by the registers, by the events, and by the dibits that the commands show (42_frame_assembler.md R138, R143). -/

namespace Sys2Proof.Machine

variable {s t : State} {i : Instr} {n : Nat} {p : List Instr} {evs : List Event}

/-- A frame is open in the registers exactly when the commands show dibits of it. -/
def State.OpenWith (s : State) (n : Nat) : Prop := s.frameOpen = true ↔ n ≠ 0

/-- With no frame open no dibit is shown. -/
theorem openWith_zero (h : s.frameOpen = false) : s.OpenWith 0 := by simp [State.OpenWith, h]

/-- Every accepted command keeps the two in step. -/
theorem Effect.keeps_openWith (h : Effect s i t) (hn : s.OpenWith n) : t.OpenWith (s.dibitsAfter n i) := by
  cases h with
  | reset | eosIdle | eosOpen => exact openWith_zero rfl
  | nop => exact hn
  | level clk ctrl dibit idx hi he =>
    simp only [State.dibitsAfter, he]
    exact hn
  | quiet clk dibit idx hi he hf =>
    simp only [State.dibitsAfter, he]
    exact openWith_zero (State.frameOpen_idle hf)
  | opened clk dibit idx hi he hf =>
    simp only [State.dibitsAfter, he]
    exact iff_of_true rfl (Nat.succ_ne_zero n)
  | pushed clk dibit idx hi he hf =>
    simp only [State.dibitsAfter, he]
    exact iff_of_true (State.frameOpen_of hf) (Nat.succ_ne_zero n)
  | byte clk dibit idx hi he hf =>
    simp only [State.dibitsAfter, he]
    exact iff_of_true (byte_keeps_open hf _) (Nat.succ_ne_zero n)
  | closed clk dibit idx hi he hf =>
    simp only [State.dibitsAfter, he]
    exact openWith_zero rfl

/-- A completed run keeps the two in step. -/
theorem runCommands_keeps_openWith (h : runCommands s p = .next (t, evs)) :
    ∀ n, s.OpenWith n → t.OpenWith (openFrameDibits s.lastClk n p) := by
  refine runCommands_induction
    (motive := fun s p t _ => ∀ n, s.OpenWith n → t.OpenWith (openFrameDibits s.lastClk n p)) ?nil ?cons p s t evs h
  case nil => exact fun s n hn => hn
  case cons =>
    intro s i u p t after he _ ih n hn
    rw [openFrameDibits_cons he]
    exact ih _ (he.keeps_openWith hn)

/-- After an edge a frame is open exactly when the edge's control bit is 1. -/
theorem Effect.sample_carrier {clk ctrl : Bool} {dibit : Dibit} {idx : Index}
    (h : Effect s (.sample clk ctrl dibit idx) t) (he : s.isEdge clk = true) : t.frameOpen = ctrl := by
  cases h with
  | level _ _ _ _ _ hlevel => exact absurd (hlevel.symm.trans he) Bool.false_ne_true
  | quiet _ _ _ _ _ hf => exact State.frameOpen_idle hf
  | pushed _ _ _ _ _ hf => exact State.frameOpen_of hf
  | byte _ _ _ _ _ hf => exact byte_keeps_open hf _
  | opened | closed => rfl

/-- Settles O47: at reset no frame is open and no dibit shown, and an edge leaves `frame_open` at its control bit. -/
theorem frameOpenIsCarrierOfLastEdge : Obligations.FrameOpenIsCarrierOfLastEdge := by
  unfold Obligations.FrameOpenIsCarrierOfLastEdge
  intro cfg p t evs h
  refine ⟨runCommands_keeps_openWith h 0 (openWith_zero rfl), fun ctrl dibit idx u hp hc hu => ?_⟩
  exact (effect_of_exec hu).sample_carrier (State.edge_of hp hc)

/-- No RESET abandons a frame: before each the commands show no dibit of an open one. -/
def NoFrameAbandoned (prev : Option Bool) (n : Nat) (p : List Instr) : Prop :=
  ∀ before after, p = before ++ .reset :: after → openFrameDibits prev n before = 0

theorem noFrameAbandoned_nil (prev : Option Bool) (n : Nat) : NoFrameAbandoned prev n [] := by
  intro before after h
  simp at h

/-- The first command apart: as a RESET it must find no dibit, and the rest goes on from its next state. -/
theorem noFrameAbandoned_cons (h : Effect s i t) (n : Nat) (p : List Instr) :
    NoFrameAbandoned s.lastClk n (i :: p) ↔
      (i = .reset → n = 0) ∧ NoFrameAbandoned t.lastClk (s.dibitsAfter n i) p := by
  constructor
  · intro hall
    refine ⟨fun hi => hall [] p (by rw [hi]; rfl), fun before after hp => ?_⟩
    rw [← openFrameDibits_cons h]
    exact hall (i :: before) after (by rw [hp]; rfl)
  · rintro ⟨hfirst, hrest⟩ before after hp
    cases before with
    | nil =>
      obtain ⟨hi, -⟩ := List.cons.inj hp
      exact hfirst hi
    | cons j before =>
      obtain ⟨rfl, htail⟩ := List.cons.inj hp
      rw [openFrameDibits_cons h]
      exact hrest before after htail

/-- A list without RESET abandons no frame. -/
theorem noFrameAbandoned_of_noReset (prev : Option Bool) (n : Nat) (h : noReset p = true) :
    NoFrameAbandoned prev n p := by
  have hmem : .reset ∉ p := by
    induction p with
    | nil => exact List.not_mem_nil
    | cons i p ih =>
      cases i with
      | reset => cases h
      | nop | sample | eos => simpa using ih h
  intro before after hp
  exact absurd (hp ▸ List.mem_append_right before List.mem_cons_self) hmem

/-- Outside a RESET that abandons a frame, a command's events open and end frames as its registers do. -/
theorem Effect.frameOpenAfter_out (h : Effect s i t) (hi : i = .reset → s.frameOpen = false) :
    frameOpenAfter s.frameOpen t.out = some t.frameOpen := by
  cases h with
  | reset => rw [hi rfl]; rfl
  | nop | level => rfl
  | eosIdle hf => rw [State.frameOpen_idle hf]; rfl
  | eosOpen hf =>
    have ho : s.frameOpen = true := bne_iff_ne.2 hf
    rw [ho]
    exact frameOpenAfter_truncated s
  | quiet clk dibit idx => exact frameOpenAfter_edge _ s idx false dibit
  | pushed clk dibit idx => exact frameOpenAfter_edge _ s idx true dibit
  | opened clk dibit idx hi he hf =>
    rw [frameOpenAfter_append, frameOpenAfter_edge, State.frameOpen_idle hf]
    rfl
  | byte clk dibit idx hi he hf ha =>
    rw [frameOpenAfter_append, frameOpenAfter_edge, State.frameOpen_of hf]
    exact congrArg some (byte_keeps_open hf _).symm
  | closed clk dibit idx hi he hf =>
    rw [frameOpenAfter_append, frameOpenAfter_edge, State.frameOpen_of hf]
    exact frameOpenAfter_deassert s idx

/-- A RESET that finds no dibit shown finds no frame open. -/
theorem State.OpenWith.closed_of (hn : s.OpenWith n) (h : n = 0) : s.frameOpen = false :=
  Bool.eq_false_iff.2 fun ho => hn.1 ho h

/-- In a run that abandons no frame the events show a frame open exactly when the registers do. -/
theorem frameOpenAfter_run (h : runCommands s p = .next (t, evs)) :
    ∀ n, s.OpenWith n → NoFrameAbandoned s.lastClk n p → frameOpenAfter s.frameOpen evs = some t.frameOpen := by
  refine runCommands_induction
    (motive := fun s p t evs => ∀ n, s.OpenWith n → NoFrameAbandoned s.lastClk n p →
      frameOpenAfter s.frameOpen evs = some t.frameOpen) ?nil ?cons p s t evs h
  case nil => exact fun s n _ _ => rfl
  case cons =>
    intro s i u p t after he _ ih n hn hkept
    obtain ⟨hfirst, hrest⟩ := (noFrameAbandoned_cons he n p).1 hkept
    rw [frameOpenAfter_append, he.frameOpenAfter_out fun hi => hn.closed_of (hfirst hi)]
    exact ih _ (he.keeps_openWith hn) hrest

/-- Settles O49: without RESET no frame is abandoned. -/
theorem framesNeverNest : Obligations.FramesNeverNest := by
  unfold Obligations.FramesNeverNest
  intro s p t evs _ hp h
  have hn : s.OpenWith s.frameOpen.toNat := by
    unfold State.OpenWith
    cases s.frameOpen <;> simp
  exact frameOpenAfter_run h _ hn (noFrameAbandoned_of_noReset _ _ hp)

end Sys2Proof.Machine

/-! SUPPORT. The end-of-run definition (44_stream_control.md R204), against RESETs that abandon a frame. -/

namespace Sys2Proof.Machine

variable {s t : State} {i : Instr} {p : List Instr} {evs : List Event}

/-- Outside a RESET that abandons a frame, the frame that waits for its FrameEnd is the open one. -/
theorem Effect.everyFrameEnds_out (h : Effect s i t) (hi : i = .reset → s.frameOpen = false) (es : List Event) :
    everyFrameEnds s.frameOpen (t.out ++ es) = everyFrameEnds t.frameOpen es := by
  cases h with
  | reset => rw [hi rfl]; rfl
  | nop | level => rfl
  | eosIdle hf => rw [State.frameOpen_idle hf]; rfl
  | eosOpen => exact everyFrameEnds_truncated _ s es
  | quiet clk dibit idx => exact everyFrameEnds_edge _ s idx false dibit es
  | pushed clk dibit idx => exact everyFrameEnds_edge _ s idx true dibit es
  | opened clk dibit idx hi he hf =>
    rw [List.append_assoc, everyFrameEnds_edge, State.frameOpen_idle hf]
    rfl
  | byte clk dibit idx hi he hf ha =>
    rw [List.append_assoc, everyFrameEnds_edge, State.frameOpen_of hf]
    exact congrArg (everyFrameEnds · es) (byte_keeps_open hf _).symm
  | closed clk dibit idx =>
    rw [List.append_assoc, everyFrameEnds_edge]
    exact everyFrameEnds_deassert _ s idx es

/-- A FrameStart that waits with no frame open waits for ever: the next frame event is another FrameStart. -/
theorem everyFrameEnds_abandoned (h : runCommands s p = .next (t, evs)) :
    s.frameOpen = false → everyFrameEnds true evs = false := by
  refine runCommands_induction
    (motive := fun s _ _ evs => s.frameOpen = false → everyFrameEnds true evs = false) ?nil ?cons p s t evs h
  case nil => exact fun s _ => rfl
  case cons =>
    intro s i u p t after he _ ih hs
    cases he with
    | reset | eosIdle => exact ih rfl
    | nop | level => exact ih hs
    | eosOpen hf => exact absurd (hs.symm.trans (bne_iff_ne.2 hf)) Bool.false_ne_true
    | quiet clk dibit idx => exact (everyFrameEnds_edge true s idx false dibit after).trans (ih hs)
    | opened clk dibit idx =>
      rw [List.append_assoc, everyFrameEnds_edge]
      rfl
    | pushed clk dibit idx hi he hf | byte clk dibit idx hi he hf | closed clk dibit idx hi he hf =>
      exact absurd (hs.symm.trans (State.frameOpen_of hf)) Bool.false_ne_true

/-- In a run that ends with no frame open every FrameStart has its FrameEnd exactly when no RESET abandons a frame. -/
theorem everyFrameEnds_run_iff (h : runCommands s p = .next (t, evs)) :
    t.frameOpen = false → ∀ n, s.OpenWith n →
      (everyFrameEnds s.frameOpen evs = true ↔ NoFrameAbandoned s.lastClk n p) := by
  refine runCommands_induction
    (motive := fun s p t evs => t.frameOpen = false → ∀ n, s.OpenWith n →
      (everyFrameEnds s.frameOpen evs = true ↔ NoFrameAbandoned s.lastClk n p)) ?nil ?cons p s t evs h
  case nil =>
    intro s hs n _
    exact iff_of_true (by rw [hs]; rfl) (noFrameAbandoned_nil _ _)
  case cons =>
    intro s i u p t after he hrun ih ht n hn
    rw [noFrameAbandoned_cons he, ← ih ht _ (he.keeps_openWith hn)]
    by_cases hfirst : i = .reset → n = 0
    · rw [he.everyFrameEnds_out fun hi => hn.closed_of (hfirst hi)]
      exact (and_iff_right hfirst).symm
    · obtain ⟨rfl, hne⟩ := Classical.not_imp.1 hfirst
      cases he
      have habandoned : everyFrameEnds true after = false := everyFrameEnds_abandoned hrun rfl
      rw [hn.2 hne]
      exact iff_of_false (fun hends => Bool.false_ne_true (habandoned.symm.trans hends)) fun hall => hfirst hall.1

/-- A completed run that ends with EOS ends at the reset registers. -/
theorem atReset_of_endsWithEos (h : runCommands s p = .next (t, evs)) : endsWithEos p = true → AtReset t := by
  refine runCommands_induction (motive := fun _ p t _ => endsWithEos p = true → AtReset t) ?nil ?cons p s t evs h
  case nil => exact fun s hends => nomatch hends
  case cons =>
    intro s i u p t after he hrun ih hends
    cases p with
    | nil =>
      obtain rfl : i = .eos := by simpa [endsWithEos] using hends
      cases hrun
      cases he <;> exact atReset_reset _ _ _
    | cons j p => exact ih (by simpa [endsWithEos] using hends)

/-- FrameStart and FrameEnd balance: the frames open before and the starts are the ends and the frames open after. -/
theorem starts_ends_of_frameOpenAfter {b c : Bool} {l : List Event} (h : frameOpenAfter b l = some c) :
    b.toNat + l.countP Event.isFrameStart = c.toNat + l.countP Event.isFrameEnd := by
  induction l generalizing b with
  | nil =>
    cases h
    rfl
  | cons e l ih =>
    rw [List.countP_cons, List.countP_cons]
    cases e with
    | clockEdge | symbolDecoded | errorMarker => exact ih h
    | byteDecoded =>
      cases b with
      | false => cases h
      | true => exact ih h
    | frameStart =>
      cases b with
      | true => cases h
      | false =>
        have := ih (b := true) h
        simp only [Event.isFrameStart, Event.isFrameEnd, Bool.toNat_true, Bool.toNat_false, if_true,
          Bool.false_eq_true, if_false] at this ⊢
        omega
    | frameEnd =>
      cases b with
      | false => cases h
      | true =>
        have := ih (b := false) h
        simp only [Event.isFrameStart, Event.isFrameEnd, Bool.toNat_true, Bool.toNat_false, if_true,
          Bool.false_eq_true, if_false] at this ⊢
        omega

/-- Settles O51: EOS leaves no frame open, so every FrameStart has its end unless a RESET abandoned it. -/
theorem finishedRunClosesEveryFrame : Obligations.FinishedRunClosesEveryFrame := by
  unfold Obligations.FinishedRunClosesEveryFrame
  intro s p t evs hs h
  have hopen : s.frameOpen = false := State.frameOpen_idle hs
  have hclosed (hends : endsWithEos p = true) : t.frameOpen = false :=
    State.frameOpen_idle (atReset_of_endsWithEos h hends).faState
  have hiff : finishedRun s p = true ↔ endsWithEos p = true ∧ NoFrameAbandoned s.lastClk 0 p := by
    rw [finishedRun_of_run h, Bool.and_eq_true]
    refine and_congr_right fun hends => ?_
    rw [← everyFrameEnds_run_iff h (hclosed hends) 0 (openWith_zero hopen), hopen]
  refine ⟨hiff, fun hfinished => ?_⟩
  obtain ⟨hends, hkept⟩ := hiff.1 hfinished
  have hframes : frameOpenAfter false evs = some false := by
    simpa only [hopen, hclosed hends] using frameOpenAfter_run h 0 (openWith_zero hopen) hkept
  exact ⟨by simpa using starts_ends_of_frameOpenAfter hframes, hframes, atReset_of_endsWithEos h hends⟩

end Sys2Proof.Machine

/-! SUPPORT. The events of a frame against its registers (20_memory.md R61, 30_encoding.md R84, R86). -/

namespace Sys2Proof.Machine

variable {s t : State} {i : Instr} {f : Option SeenFrame} {g : SeenFrame} {evs : List Event}

/-- The registers hold the frame that the events show: its start, and its bytes up to the counter's greatest value. -/
def State.Holds (s : State) (f : Option SeenFrame) : Prop :=
  (f = none ↔ s.frameOpen = false) ∧
  ∀ g, f = some g → g.start = s.frameStartIdx ∧ s.byteCount.toNat = min g.bytes (2 ^ 32 - 1)

/-- A closed assembler holds no frame. -/
theorem holds_none (h : s.frameOpen = false) : s.Holds none := ⟨iff_of_true rfl h, nofun⟩

/-- An assembler that holds no frame is closed, and shows none. -/
theorem State.Holds.eq_none (h : s.Holds f) (hf : s.faState = .idle) : f = none := h.1.2 (State.frameOpen_idle hf)

/-- An open frame is one that the events show. -/
theorem State.Holds.eq_some (h : s.Holds f) (ho : s.frameOpen = true) :
    ∃ g, f = some g ∧ g.start = s.frameStartIdx ∧ s.byteCount.toNat = min g.bytes (2 ^ 32 - 1) := by
  cases f with
  | none => exact absurd ((h.1.1 rfl).symm.trans ho) Bool.false_ne_true
  | some g => exact ⟨g, rfl, h.2 g rfl⟩

/-- An open frame with its start and bytes is held. -/
theorem holds_some (ho : s.frameOpen = true) (hstart : g.start = s.frameStartIdx)
    (hbytes : s.byteCount.toNat = min g.bytes (2 ^ 32 - 1)) : s.Holds (some g) := by
  refine ⟨iff_of_false nofun (by simp [ho]), fun g' hg => ?_⟩
  cases hg
  exact ⟨hstart, hbytes⟩

/-- One more byte on a counter that saturates and on one that does not. -/
theorem satInc_toNat_min {c : Count} {n : Nat} (h : c.toNat = min n (2 ^ 32 - 1)) :
    (satInc c).toNat = min (n + 1) (2 ^ 32 - 1) := by
  unfold satInc
  split <;> bv_omega

/-- The markers of a close do not concern the frames' agreement. -/
theorem framesAgree_closeMarkers (f : Option SeenFrame) (s : State) (status : FrameStatus) (sfd : Bool) (last : Index) :
    framesAgree f (closeMarkerEvents s status sfd last) = some f := by
  have hstatus : framesAgree f ((statusMarker status).toList.map
      (Event.errorMarker s.frameStartIdx last · (zextDibits s.accCount))) = some f := by
    cases statusMarker status <;> cases f <;> rfl
  simp only [closeMarkerEvents_eq, framesAgree_append, hstatus, framesAgree_markerIf, Option.bind_some]

/-- A false carrier has completed no byte (R140). -/
theorem State.byteCount_of_falseCarrier {cause : CloseCause} (h : s.classifyStatus cause = .falseCarrier) :
    s.byteCount = 0 := by
  cases cause with
  | eos => cases h
  | deassert =>
    by_contra hne
    simp only [State.classifyStatus, if_neg hne] at h
    split at h <;> cases h

/-- A close ends the frame that the registers hold. -/
theorem framesAgree_close (hstart : g.start = s.frameStartIdx) (hbytes : s.byteCount.toNat = min g.bytes (2 ^ 32 - 1))
    (last : Index) (cause : CloseCause) : framesAgree (some g) (closeEvents s last cause) = some none := by
  have hfalse (h : s.classifyStatus cause = .falseCarrier) : g.bytes = 0 := by
    have := State.byteCount_of_falseCarrier h
    bv_omega
  have hagree := And.intro hstart.symm (And.intro hbytes hfalse)
  simp only [closeEvents, State.frameEndEvent, framesAgree, if_pos hagree, framesAgree_closeMarkers]

/-- Outside RESET a command's events agree with the frame held before, and leave the one held after. -/
theorem Effect.framesAgree_out (h : Effect s i t) (hi : i ≠ .reset) (hs : s.Holds f) :
    ∃ f', framesAgree f t.out = some f' ∧ t.Holds f' := by
  cases h with
  | reset => exact absurd rfl hi
  | nop | level => exact ⟨f, rfl, hs⟩
  | eosIdle hf =>
    cases hs.eq_none hf
    exact ⟨none, rfl, holds_none rfl⟩
  | eosOpen hf =>
    obtain ⟨g, rfl, hstart, hbytes⟩ := hs.eq_some (bne_iff_ne.2 hf)
    exact ⟨none, closeEvents_eos s ▸ framesAgree_close hstart hbytes s.lastIdx .eos, holds_none rfl⟩
  | quiet clk dibit idx => exact ⟨f, framesAgree_edge f s idx false dibit, hs⟩
  | pushed clk dibit idx => exact ⟨f, framesAgree_edge f s idx true dibit, hs⟩
  | opened clk dibit idx hi he hf =>
    cases hs.eq_none hf
    refine ⟨some { start := idx, bytes := 0 }, ?_, holds_some rfl rfl rfl⟩
    rw [framesAgree_append, framesAgree_edge]
    rfl
  | byte clk dibit idx hi he hf =>
    obtain ⟨g, rfl, hstart, hbytes⟩ := hs.eq_some (State.frameOpen_of hf)
    refine ⟨some { g with bytes := g.bytes + 1 }, ?_,
      holds_some (byte_keeps_open hf _) hstart (satInc_toNat_min hbytes)⟩
    rw [framesAgree_append, framesAgree_edge, Option.bind_some]
    simp only [framesAgree, hstart, if_true]
  | closed clk dibit idx hi he hf =>
    obtain ⟨g, rfl, hstart, hbytes⟩ := hs.eq_some (State.frameOpen_of hf)
    refine ⟨none, ?_, holds_none rfl⟩
    rw [framesAgree_append, framesAgree_edge, Option.bind_some, ← closeEvents_deassert]
    exact framesAgree_close hstart hbytes idx .deassert

/-- A list without RESET, its first command apart. -/
theorem noReset_cons {p : List Instr} (h : noReset (i :: p) = true) : i ≠ .reset ∧ noReset p = true := by
  cases i with
  | reset => cases h
  | nop | sample | eos => exact ⟨Instr.noConfusion, h⟩

/-- A completed run without RESET keeps the frame of the events and of the registers the same. -/
theorem framesAgree_run {p : List Instr} (h : runCommands s p = .next (t, evs)) :
    noReset p = true → ∀ f, s.Holds f → ∃ f', framesAgree f evs = some f' ∧ t.Holds f' := by
  refine runCommands_induction
    (motive := fun s p t evs => noReset p = true → ∀ f, s.Holds f →
      ∃ f', framesAgree f evs = some f' ∧ t.Holds f') ?nil ?cons p s t evs h
  case nil => exact fun s _ f hf => ⟨f, by cases f <;> rfl, hf⟩
  case cons =>
    intro s i u p t after he _ ih hp f hf
    obtain ⟨hi, hp⟩ := noReset_cons hp
    obtain ⟨f', hout, hf'⟩ := he.framesAgree_out hi hf
    rw [framesAgree_append, hout]
    exact ih hp f' hf'

/-- Settles O50: an idle assembler holds no frame, and each command keeps the held frame in step with the events. -/
theorem frameEventsAgree : Obligations.FrameEventsAgree := by
  unfold Obligations.FrameEventsAgree
  intro s p t evs hs hp h
  exact framesAgree_run h hp none (holds_none (State.frameOpen_idle hs))

end Sys2Proof.Machine

/-! SUPPORT. The runs that complete (60_exceptions.md R220, R225). -/

namespace Sys2Proof.Machine

variable {s t : State} {i : Instr} {p : List Instr}

/-- No accepted command enters CLOSING. -/
theorem Effect.keeps_not_closing (h : Effect s i t) (hs : s.faState ≠ .closing) : t.faState ≠ .closing := by
  cases h with
  | reset | eosIdle | eosOpen | opened | closed => exact FaState.noConfusion
  | nop | level | quiet | pushed => exact hs
  | byte =>
    dsimp only
    split
    · exact FaState.noConfusion
    · exact hs

/-- The index test of the host's duty H1 is the test of R101 on the registers. -/
theorem indicesIncrease_sample (s : State) (clk ctrl : Bool) (dibit : Dibit) (idx : Index) (p : List Instr) :
    indicesIncrease s.lastIndex (.sample clk ctrl dibit idx :: p) =
      (!s.indexRefused idx && indicesIncrease (some idx) p) := by
  simp only [indicesIncrease, State.lastIndex, State.indexRefused]
  cases s.havePrev <;> simp [← BitVec.not_le]

/-- An accepted SAMPLE's index is the stream's last one. -/
theorem Effect.lastIndex_sample {clk ctrl : Bool} {dibit : Dibit} {idx : Index}
    (h : Effect s (.sample clk ctrl dibit idx) t) :
    t.lastIndex = some idx ∧ s.indexRefused idx = false := by
  cases h <;> exact ⟨rfl, ‹_›⟩

/-- Behind an accepted command the indices increase as they do from its next state. -/
theorem indicesIncrease_cons (h : Effect s i t) (p : List Instr) :
    indicesIncrease s.lastIndex (i :: p) = indicesIncrease t.lastIndex p := by
  cases i with
  | reset | nop =>
    cases h
    rfl
  | eos => cases h <;> rfl
  | sample clk ctrl dibit idx =>
    obtain ⟨hlast, hi⟩ := h.lastIndex_sample
    rw [indicesIncrease_sample, hi, hlast]
    rfl

/-- Settles O53, by induction on the commands: each is accepted, or refused for its index. -/
theorem runCompletesExactlyWhenIndicesIncrease : Obligations.RunCompletesExactlyWhenIndicesIncrease := by
  unfold Obligations.RunCompletesExactlyWhenIndicesIncrease
  intro s p
  induction p generalizing s with
  | nil => exact fun _ => ⟨fun _ => ⟨s, [], rfl⟩, nofun⟩
  | cons i p ih =>
    intro hs
    obtain ⟨t, ht⟩ | ⟨clk, ctrl, dibit, idx, rfl, hi, hr⟩ | ⟨_, _, _, _, -, -, -, hclosing, -⟩ := exec_stops i s
    · have heff := effect_of_exec ht
      obtain ⟨hcompletes, hrefused⟩ := ih t (heff.keeps_not_closing hs)
      rw [indicesIncrease_cons heff, runCommands_cons_next p ht]
      refine ⟨fun hinc => ?_, fun hinc => ?_⟩
      · obtain ⟨u, evs, hrun⟩ := hcompletes hinc
        exact ⟨u, t.out ++ evs, by rw [hrun]; rfl⟩
      · rw [hrefused hinc]
        rfl
    · have hinc : indicesIncrease s.lastIndex (.sample clk ctrl dibit idx :: p) = false := by
        rw [indicesIncrease_sample, hi]
        rfl
      rw [hinc]
      exact ⟨nofun, fun _ => by simp only [runCommands, hr]⟩
    · exact absurd hclosing hs

end Sys2Proof.Machine

/-! SUPPORT. Runs up to the port's last event list: NOPs take no part (44_stream_control.md R200). -/

namespace Sys2Proof.Machine

/-- Runs that agree behind every state agree behind a command. -/
theorem withoutOut_cons_congr {p q : List Instr}
    (h : ∀ t, withoutOut (runCommands t p) = withoutOut (runCommands t q)) (s : State) (i : Instr) :
    withoutOut (runCommands s (i :: p)) = withoutOut (runCommands s (i :: q)) := by
  have hbehind (t : State) (r : List Instr) :
      withoutOut (mapNext (fun x => (x.1, t.out ++ x.2)) (runCommands t r)) =
        mapNext (fun x => (x.1, t.out ++ x.2)) (withoutOut (runCommands t r)) := by
    simp only [withoutOut, mapNext_mapNext]
  cases hexec : exec i s with
  | next t => simp only [runCommands_cons_next _ hexec, hbehind, h]
  | fault r => simp only [runCommands, hexec]
  | refused r => simp only [runCommands, hexec]

/-- A run reads nothing of the events shown before it. -/
theorem withoutOut_setOut (s : State) (o : List Event) (p : List Instr) :
    withoutOut (runCommands { s with out := o } p) = withoutOut (runCommands s p) := by
  cases p with
  | nil => rfl
  | cons i p => simp only [runCommands, exec_setOut]

/-- A NOP before a run takes no part in it. -/
theorem withoutOut_nop_cons (s : State) (p : List Instr) :
    withoutOut (runCommands s (.nop :: p)) = withoutOut (runCommands s p) := by
  have hrun : runCommands s (.nop :: p) = runCommands { s with out := [] } p := by
    rw [runCommands_cons_next p (exec_of_effect .nop)]
    cases runCommands { s with out := [] } p <;> rfl
  rw [hrun, withoutOut_setOut]

/-- Settles O7, by induction on the commands: a NOP takes no part, and the others stand in both lists. -/
theorem nopsChangeNothing : Obligations.NopsChangeNothing := by
  unfold Obligations.NopsChangeNothing
  refine ⟨fun s => exec_of_effect .nop, fun s p => ?_⟩
  induction p generalizing s with
  | nil => rfl
  | cons i p ih =>
    cases i with
    | nop => exact (withoutOut_nop_cons s p).trans (ih s)
    | reset | sample | eos => exact withoutOut_cons_congr ih s _

end Sys2Proof.Machine

/-! SUPPORT. The edge and frame registers as a function of the events (10_state.md R37). -/

namespace Sys2Proof.Machine

variable {s t : State} {i : Instr}

/-- The registers that only edges write. -/
structure FrameRegs where
  haveEdge : Bool
  lastEdgeIdx : Index
  faState : FaState
  accCount : BitVec 2
  accBits : BitVec 6
  accFirstIdx : Index
  frameStartIdx : Index
  byteCount : Count
  bodyCount : Count

/-- The edge and frame registers of a state. -/
def State.frameRegs (s : State) : FrameRegs where
  haveEdge := s.haveEdge
  lastEdgeIdx := s.lastEdgeIdx
  faState := s.faState
  accCount := s.accCount
  accBits := s.accBits
  accFirstIdx := s.accFirstIdx
  frameStartIdx := s.frameStartIdx
  byteCount := s.byteCount
  bodyCount := s.bodyCount

/-- The registers after an edge, from what its SymbolDecoded shows (42_frame_assembler.md R131 to R137). -/
def FrameRegs.afterSymbol (r : FrameRegs) (idx : Index) (dibit : Dibit) (ctrl : Bool) : FrameRegs :=
  if r.faState = .idle then
    if ctrl then
      { haveEdge := true, lastEdgeIdx := idx, faState := .preamble, frameStartIdx := idx, accCount := 1
        accBits := setDibit 0 0 dibit, accFirstIdx := idx, byteCount := 0, bodyCount := 0 }
    else { r with haveEdge := true, lastEdgeIdx := idx }
  else if ctrl then
    if r.accCount = 3 then
      { r with
        haveEdge := true, lastEdgeIdx := idx
        faState := if r.faState ≠ .inFrame ∧ assembleByte r.accBits dibit = sfdByte then .inFrame else r.faState
        byteCount := satInc r.byteCount
        bodyCount := if r.faState = .inFrame then satInc r.bodyCount else r.bodyCount
        accCount := 0, accBits := 0, accFirstIdx := 0 }
    else
      { r with
        haveEdge := true, lastEdgeIdx := idx
        accCount := r.accCount + 1, accBits := setDibit r.accBits r.accCount dibit
        accFirstIdx := if r.accCount = 0 then idx else r.accFirstIdx }
  else
    { haveEdge := true, lastEdgeIdx := idx, faState := .idle, accCount := 0, accBits := 0, accFirstIdx := 0
      frameStartIdx := 0, byteCount := 0, bodyCount := 0 }

/-- The registers after one more event: only a SymbolDecoded tells of a change. -/
def FrameRegs.observe (r : FrameRegs) : Event → FrameRegs
  | .symbolDecoded idx dibit ctrl => r.afterSymbol idx dibit ctrl
  | .clockEdge _ => r
  | .byteDecoded _ _ _ _ => r
  | .frameStart _ => r
  | .frameEnd _ _ _ _ _ _ _ _ => r
  | .errorMarker _ _ _ _ => r

/-- The edge's own events tell its symbol. -/
theorem observe_edgeEvents (r : FrameRegs) (s : State) (idx : Index) (ctrl : Bool) (dibit : Dibit) :
    (edgeEvents s idx ctrl dibit).foldl FrameRegs.observe r = r.afterSymbol idx dibit ctrl := by
  unfold edgeEvents
  split <;> rfl

/-- Events after the edge's own tell nothing more of the registers. -/
theorem observe_of_rank (r : FrameRegs) {es : List Event} (h : ∀ e ∈ es, 3 ≤ e.rank) :
    es.foldl FrameRegs.observe r = r := by
  induction es with
  | nil => rfl
  | cons e es ih =>
    have hsame : r.observe e = r := by
      cases e with
      | symbolDecoded => exact absurd (h _ List.mem_cons_self) (Nat.not_succ_le_self 2)
      | clockEdge | byteDecoded | frameStart | frameEnd | errorMarker => rfl
    rw [List.foldl_cons, hsame]
    exact ih fun x hx => h x (List.mem_cons_of_mem e hx)

/-- An accepted edge writes the registers as its symbol tells. -/
theorem Effect.frameRegs_of_edge {clk ctrl : Bool} {dibit : Dibit} {idx : Index}
    (h : Effect s (.sample clk ctrl dibit idx) t) (he : s.isEdge clk = true) :
    t.frameRegs = s.frameRegs.afterSymbol idx dibit ctrl := by
  cases h with
  | level _ _ _ _ _ hlevel => exact absurd (hlevel.symm.trans he) Bool.false_ne_true
  | quiet _ _ _ _ _ hf | opened _ _ _ _ _ hf => simp [FrameRegs.afterSymbol, State.frameRegs, hf]
  | pushed _ _ _ _ _ hf ha =>
    have hidle : s.frameRegs.faState ≠ .idle := State.not_idle_of hf
    have hacc : s.frameRegs.accCount ≠ 3 := ha
    simp only [FrameRegs.afterSymbol, if_neg hidle, if_true, if_neg hacc]
    rfl
  | byte _ _ _ _ _ hf ha =>
    have hidle : s.frameRegs.faState ≠ .idle := State.not_idle_of hf
    have hacc : s.frameRegs.accCount = 3 := ha
    simp only [FrameRegs.afterSymbol, if_neg hidle, if_true, if_pos hacc]
    rfl
  | closed _ _ _ _ _ hf => simp [FrameRegs.afterSymbol, State.frameRegs, State.not_idle_of hf]

/-- A SAMPLE that is no edge writes none of the registers. -/
theorem Effect.frameRegs_of_level {clk ctrl : Bool} {dibit : Dibit} {idx : Index}
    (h : Effect s (.sample clk ctrl dibit idx) t) (he : s.isEdge clk = false) : t.frameRegs = s.frameRegs := by
  cases h with
  | level => rfl
  | quiet _ _ _ _ hedge | opened _ _ _ _ hedge | pushed _ _ _ _ hedge | byte _ _ _ _ hedge
  | closed _ _ _ _ hedge => exact absurd (he.symm.trans hedge) Bool.false_ne_true

/-- Within a stream a command's events tell its writes of the edge and frame registers. -/
theorem Effect.frameRegs_eq_observe (h : Effect s i t) (hreset : i ≠ .reset) (heos : i ≠ .eos) :
    t.frameRegs = t.out.foldl FrameRegs.observe s.frameRegs := by
  cases i with
  | reset => exact absurd rfl hreset
  | eos => exact absurd rfl heos
  | nop =>
    cases h
    rfl
  | sample clk ctrl dibit idx =>
    cases he : s.isEdge clk with
    | false => rw [h.frameRegs_of_level he, h.sample_out_of_level he, List.foldl_nil]
    | true =>
      obtain ⟨es, hout, hes⟩ := h.sample_out_of_edge he
      rw [h.frameRegs_of_edge he, hout, List.foldl_append, observe_edgeEvents, observe_of_rank _ hes]

/-- A list within a stream, its first command apart. -/
theorem withinStream_cons {p : List Instr} (h : withinStream (i :: p) = true) :
    (i ≠ .reset ∧ i ≠ .eos) ∧ withinStream p = true := by
  cases i with
  | reset | eos => cases h
  | nop | sample => exact ⟨⟨Instr.noConfusion, Instr.noConfusion⟩, h⟩

/-- A completed run within a stream leaves the registers that its events tell. -/
theorem frameRegs_run {p : List Instr} {evs : List Event} (h : runCommands s p = .next (t, evs)) :
    withinStream p = true → t.frameRegs = evs.foldl FrameRegs.observe s.frameRegs := by
  refine runCommands_induction
    (motive := fun s p t evs => withinStream p = true → t.frameRegs = evs.foldl FrameRegs.observe s.frameRegs)
    ?nil ?cons p s t evs h
  case nil => exact fun s _ => rfl
  case cons =>
    intro s i u p t after he _ ih hp
    obtain ⟨⟨hreset, heos⟩, hp⟩ := withinStream_cons hp
    rw [List.foldl_append, ← he.frameRegs_eq_observe hreset heos]
    exact ih hp

/-- Settles O56: both runs leave the registers that the same events tell from the same reset registers. -/
theorem eventsDetermineFrameRegisters : Obligations.EventsDetermineFrameRegisters := by
  unfold Obligations.EventsDetermineFrameRegisters
  intro cfg p q t u evs hp hq ht hu
  have hsame : t.frameRegs = u.frameRegs := (frameRegs_run ht hp).trans (frameRegs_run hu hq).symm
  simpa only [State.frameRegs, FrameRegs.mk.injEq] using hsame

end Sys2Proof.Machine

/-! SUPPORT. Four consecutive dibits of one frame with a low sample between each two (20_memory.md R52, 42_frame_assembler.md R133, R134). -/

namespace Sys2Proof.Machine

variable {s : State} {k : BitVec 2} {bits : BitVec 6} {first start last i j : Index}

/-- An open frame with dibits in its accumulator, as a stream's next SAMPLE finds it. -/
structure Buffered (s : State) (k : BitVec 2) (bits : BitVec 6) (first start last : Index) : Prop where
  isOpen : s.faState = .preamble ∨ s.faState = .inFrame
  accCount : s.accCount = k
  accBits : s.accBits = bits
  accFirstIdx : s.accFirstIdx = first
  frameStartIdx : s.frameStartIdx = start
  lastIdx : s.lastIdx = last

/-- The sequence shows the given ByteDecoded events and the given FrameStart events, in order. -/
def ShowsFrames (evs bytes starts : List Event) : Prop :=
  evs.filter Event.isByteDecoded = bytes ∧ evs.filter Event.isFrameStart = starts

/-- Two sequences one after the other show the events of both. -/
theorem ShowsFrames.append {evs evs' bytes bytes' starts starts' : List Event} (h : ShowsFrames evs bytes starts)
    (h' : ShowsFrames evs' bytes' starts') : ShowsFrames (evs ++ evs') (bytes ++ bytes') (starts ++ starts') := by
  obtain ⟨hbytes, hstarts⟩ := h
  obtain ⟨hbytes', hstarts'⟩ := h'
  exact ⟨by rw [List.filter_append, hbytes, hbytes'], by rw [List.filter_append, hstarts, hstarts']⟩

/-- An edge's own events show no byte and no FrameStart. -/
theorem edgeEvents_shows (s : State) (idx : Index) (ctrl : Bool) (dibit : Dibit) :
    ShowsFrames (edgeEvents s idx ctrl dibit) [] [] :=
  ⟨edgeEvents_bytes s idx ctrl dibit, edgeEvents_starts s idx ctrl dibit⟩

/-- An open frame is in one of its two states after a completed byte. -/
theorem open_cases_of_byte (hf : s.faState = .preamble ∨ s.faState = .inFrame) (v : Byte) :
    (if s.faState ≠ .inFrame ∧ v = sfdByte then FaState.inFrame else s.faState) = .preamble ∨
    (if s.faState ≠ .inFrame ∧ v = sfdByte then FaState.inFrame else s.faState) = .inFrame := by
  split
  · exact .inr rfl
  · exact hf

/-- A low sample and a second or third dibit: it is buffered, and no byte and no frame event is shown. -/
theorem run_low_dibit (h : Buffered s k bits first start last) (h0 : k ≠ 0) (h3 : k ≠ 3)
    (hj : last < j) (hi : j < i) (c : Bool) (x q : Dibit) :
    ∃ t evs, runCommands s [.sample false c x j, .sample true true q i] = .next (t, evs) ∧
      ShowsFrames evs [] [] ∧ Buffered t (k + 1) (setDibit bits k q) first start i := by
  obtain ⟨hf, rfl, rfl, rfl, rfl, rfl⟩ := h
  refine ⟨_, _, runCommands_cons_effect (effect_low s c x j (State.accepted_of_lt hj))
    (runCommands_cons_effect (.pushed true q i (State.accepted_of_lt hi) (State.edge_of rfl rfl) hf h3) rfl), ?_, ?_⟩
  · simpa using edgeEvents_shows _ i true q
  · exact ⟨hf, rfl, rfl, if_neg h0, rfl, rfl⟩

/-- A low sample and a fourth dibit: the byte is shown, and the frame is at a byte boundary. -/
theorem run_low_byte (h : Buffered s 3 bits first start last) (hj : last < j) (hi : j < i)
    (c : Bool) (x q : Dibit) :
    ∃ t evs, runCommands s [.sample false c x j, .sample true true q i] = .next (t, evs) ∧
      ShowsFrames evs [.byteDecoded first i (assembleByte bits q) start] [] ∧ Buffered t 0 0 0 start i := by
  obtain ⟨hf, ha, rfl, rfl, rfl, rfl⟩ := h
  refine ⟨_, _, runCommands_cons_effect (effect_low s c x j (State.accepted_of_lt hj))
    (runCommands_cons_effect (.byte true q i (State.accepted_of_lt hi) (State.edge_of rfl rfl) hf ha) rfl), ?_, ?_⟩
  · rw [List.append_nil]
    exact (edgeEvents_shows _ i true q).append ⟨rfl, rfl⟩
  · exact ⟨open_cases_of_byte hf _, rfl, rfl, rfl, rfl, rfl⟩

/-- Outside IDLE and CLOSING a frame is in PREAMBLE or IN_FRAME. -/
theorem State.open_cases_of (hidle : s.faState ≠ .idle) (hclosing : s.faState ≠ .closing) :
    s.faState = .preamble ∨ s.faState = .inFrame := by
  cases hs : s.faState with
  | idle => exact absurd hs hidle
  | preamble => exact .inl rfl
  | inFrame => exact .inr rfl
  | closing => exact absurd hs hclosing

/-- The first dibit of a byte, at an edge: of a frame that it opens, or of the open frame. -/
theorem effect_first_dibit (hf : s.faState ≠ .closing) (ha : s.accCount = 0) (hb : s.accBits = 0)
    (hp : s.havePrev = true) (hc : s.prevClk = false) (hi : s.lastIdx < i) (q : Dibit) :
    ∃ t, Effect s (.sample true true q i) t ∧
      ShowsFrames t.out [] (if s.frameOpen then [] else [.frameStart i]) ∧
      Buffered t 1 (0#4 ++ q) i (if s.frameOpen then s.frameStartIdx else i) i := by
  have haccepted := State.accepted_of_lt hi
  have hedge := State.edge_of hp hc
  by_cases hidle : s.faState = .idle
  · refine ⟨_, .opened true q i haccepted hedge hidle, ?_, ?_⟩
    · rw [State.frameOpen_idle hidle]
      exact (edgeEvents_shows s i true q).append ⟨rfl, rfl⟩
    · rw [State.frameOpen_idle hidle]
      exact ⟨.inl rfl, rfl, setDibit_zero_zero q, rfl, rfl, rfl⟩
  · have hopen := State.open_cases_of hidle hf
    refine ⟨_, .pushed true q i haccepted hedge hopen (by simp [ha]), ?_, ?_⟩
    · rw [State.frameOpen_of hopen]
      exact edgeEvents_shows s i true q
    · rw [State.frameOpen_of hopen]
      exact ⟨hopen, by simp [ha], by simp only [ha, hb]; exact setDibit_zero_zero q, if_pos ha, rfl, rfl⟩

/-- Three dibits in their places of the accumulator and a fourth make their byte (R52). -/
theorem assembleByte_setDibit (q0 q1 q2 q3 : Dibit) :
    assembleByte (setDibit (setDibit (0#4 ++ q0) 1#2 q1) 2#2 q2) q3 = q3 ++ q2 ++ q1 ++ q0 := by
  revert q0 q1 q2 q3
  decide

/-- Four dibits from a byte boundary, or from an idle assembler, complete with exactly their byte. -/
theorem run_four_dibits {i0 j1 i1 j2 i2 j3 i3 : Index} (hf : s.faState ≠ .closing) (ha : s.accCount = 0)
    (hb : s.accBits = 0) (hp : s.havePrev = true) (hc : s.prevClk = false) (h0 : s.lastIdx < i0) (hj1 : i0 < j1)
    (h1 : j1 < i1) (hj2 : i1 < j2) (h2 : j2 < i2) (hj3 : i2 < j3) (h3 : j3 < i3)
    (q0 q1 q2 q3 x1 x2 x3 : Dibit) (c1 c2 c3 : Bool) :
    ∃ t evs,
      runCommands s
        [.sample true true q0 i0, .sample false c1 x1 j1, .sample true true q1 i1, .sample false c2 x2 j2,
          .sample true true q2 i2, .sample false c3 x3 j3, .sample true true q3 i3] = .next (t, evs) ∧
      ShowsFrames evs
        [.byteDecoded i0 i3 (q3 ++ q2 ++ q1 ++ q0) (if s.frameOpen then s.frameStartIdx else i0)]
        (if s.frameOpen then [] else [.frameStart i0]) ∧
      Buffered t 0 0 0 (if s.frameOpen then s.frameStartIdx else i0) i3 := by
  obtain ⟨t0, he, hshow0, hbuf0⟩ := effect_first_dibit hf ha hb hp hc h0 q0
  obtain ⟨t1, evs1, hrun1, hshow1, hbuf1⟩ := run_low_dibit hbuf0 (by decide) (by decide) hj1 h1 c1 x1 q1
  obtain ⟨t2, evs2, hrun2, hshow2, hbuf2⟩ := run_low_dibit hbuf1 (by decide) (by decide) hj2 h2 c2 x2 q2
  obtain ⟨t3, evs3, hrun3, hshow3, hbuf3⟩ := run_low_byte hbuf2 hj3 h3 c3 x3 q3
  refine ⟨t3, _, runCommands_cons_effect he
    (runCommands_append hrun1 (runCommands_append hrun2 hrun3)), ?_, hbuf3⟩
  simpa [assembleByte_setDibit] using hshow0.append (hshow1.append (hshow2.append hshow3))

/-- Settles O57: the frame is open at a byte boundary, and the four dibits make their byte. -/
theorem fourDibitsMakeOneByte : Obligations.FourDibitsMakeOneByte := by
  unfold Obligations.FourDibitsMakeOneByte
  intro s q0 q1 q2 q3 x1 x2 x3 c1 c2 c3 i0 j1 i1 j2 i2 j3 i3 hf ha hb hp hc h0 hj1 h1 hj2 h2 hj3 h3
  have hclosing : s.faState ≠ .closing := by rcases hf with hf | hf <;> simp [hf]
  obtain ⟨t, evs, hrun, ⟨hbytes, -⟩, hbuf⟩ :=
    run_four_dibits hclosing ha hb hp hc h0 hj1 h1 hj2 h2 hj3 h3 q0 q1 q2 q3 x1 x2 x3 c1 c2 c3
  rw [State.frameOpen_of hf] at hbytes hbuf
  exact ⟨t, evs, hrun, hbytes, hbuf.accCount, hbuf.accBits, hbuf.frameStartIdx⟩

end Sys2Proof.Machine

/-! SUPPORT. The pseudo-instruction TXB (30_encoding.md R92): four periods, each a low sample and an edge. -/

namespace Sys2Proof.Machine

/-- A byte is its four dibits, the first in bits 1:0 (20_memory.md R52). -/
theorem byteDibits_append (v : Byte) : byteDibit v 3 ++ byteDibit v 2 ++ byteDibit v 1 ++ byteDibit v 0 = v := by
  revert v
  decide

/-- Numbers that fit 64 bits keep their order as indices. -/
theorem index_ofNat_lt {a b : Nat} (hab : a < b) (hb : b < 2 ^ 64) :
    (BitVec.ofNat 64 a : Index) < BitVec.ofNat 64 b := by
  rw [BitVec.lt_def, BitVec.toNat_ofNat, BitVec.toNat_ofNat, Nat.mod_eq_of_lt hb,
    Nat.mod_eq_of_lt (Nat.lt_trans hab hb)]
  exact hab

/-- At a byte boundary the accumulator's bits are all 0 (I4). -/
theorem Inv.accBits_of_boundary {s : State} (h : Inv s) (ha : s.accCount = 0) : s.accBits = 0 := by
  simpa [ha] using h.accHigh

/-- Settles O60: TXB's first sample is low, and its edges show the byte's four dibits. -/
theorem txbSendsItsByte : Obligations.TxbSendsItsByte := by
  unfold Obligations.TxbSendsItsByte
  intro s n value hs ha hfit hlast
  have hidx {a b : Nat} (hab : a < b) (hb : b ≤ 2 * (n + 3) + 1) :
      (BitVec.ofNat 64 a : Index) < BitVec.ofNat 64 b := index_ofNat_lt hab (Nat.lt_of_le_of_lt hb hfit)
  have haccepted : ¬ (s.havePrev = true ∧ BitVec.ofNat 64 (2 * n) ≤ s.lastIdx) := by
    rintro ⟨hp, hle⟩
    have := hlast hp
    rw [BitVec.le_def, BitVec.toNat_ofNat, Nat.mod_eq_of_lt (by omega)] at hle
    omega
  obtain ⟨t, evs, hrun, ⟨hbytes, hstarts⟩, hbuf⟩ :=
    run_four_dibits (s := { s with
        havePrev := true, prevClk := false, lastIdx := BitVec.ofNat 64 (2 * n), out := [] })
      hs.notClosing ha (hs.accBits_of_boundary ha) rfl rfl
      (hidx (a := 2 * n) (b := 2 * n + 1) (by omega) (by omega))
      (hidx (b := 2 * (n + 1)) (by omega) (by omega))
      (hidx (b := 2 * (n + 1) + 1) (by omega) (by omega))
      (hidx (b := 2 * (n + 2)) (by omega) (by omega))
      (hidx (b := 2 * (n + 2) + 1) (by omega) (by omega))
      (hidx (b := 2 * (n + 3)) (by omega) (by omega))
      (hidx (b := 2 * (n + 3) + 1) (by omega) (by omega))
      (byteDibit value 0) (byteDibit value 1) (byteDibit value 2) (byteDibit value 3)
      (byteDibit value 1) (byteDibit value 2) (byteDibit value 3) true true true
  refine ⟨t, [] ++ evs, runCommands_cons_effect
    (effect_low s true (byteDibit value 0) (BitVec.ofNat 64 (2 * n)) (State.accepted_of haccepted)) hrun, ?_,
    hstarts, hbuf.accCount, State.frameOpen_of hbuf.isOpen⟩
  rw [byteDibits_append] at hbytes
  exact hbytes

end Sys2Proof.Machine

/-! SUPPORT. A byte completed on the edge before the deassertion, and a new frame on the edge after it (42_frame_assembler.md R138, R142). -/

namespace Sys2Proof.Machine

/-- The event completes a byte or opens or ends a frame. -/
def Event.isFrameAssembler (e : Event) : Bool := e.isByteDecoded || e.isFrameStart || e.isFrameEnd

/-- The FrameAssembler's events have one place in the canonical order. -/
theorem Event.rank_of_isFrameAssembler {e : Event} (h : e.isFrameAssembler = true) : e.rank = 3 := by
  cases e with
  | byteDecoded | frameStart | frameEnd => rfl
  | clockEdge | symbolDecoded | errorMarker => cases h

/-- An edge's own events hold none of the FrameAssembler's. -/
theorem edgeEvents_frameAssembler (s : State) (idx : Index) (ctrl : Bool) (dibit : Dibit) :
    (edgeEvents s idx ctrl dibit).filter Event.isFrameAssembler = [] :=
  List.filter_eq_nil_iff.2 fun e he hfa =>
    Nat.ne_of_lt (edgeEvents_rank_lt s idx ctrl dibit e he) (Event.rank_of_isFrameAssembler hfa)

/-- Of a close by deassertion the FrameAssembler's event is the FrameEnd. -/
theorem deassertEvents_frameAssembler (s : State) (last : Index) :
    (deassertEvents s last).filter Event.isFrameAssembler =
      [s.frameEndEvent (s.classifyStatus .deassert) last] := by
  have hmarkers :
      (closeMarkerEvents s (s.classifyStatus .deassert) s.sfdSeen last).filter Event.isFrameAssembler = [] :=
    List.filter_eq_nil_iff.2 fun e he hfa =>
      Nat.ne_of_gt (closeMarkerEvents_rank _ _ _ _ e he) (Event.rank_of_isFrameAssembler hfa)
  rw [← closeEvents_deassert, closeEvents, List.filter_cons_of_pos rfl, hmarkers]

/-- A frame with a completed byte and an empty accumulator closes as CompleteAligned (R140). -/
theorem State.classifyStatus_at_boundary {s : State} (ha : s.accCount = 0) (hb : s.byteCount ≠ 0) :
    s.classifyStatus .deassert = .completeAligned := by
  simp only [State.classifyStatus, if_neg hb, if_pos ha]

/-- After a completed byte the SFD has been seen if it had been before or is that byte (R135). -/
theorem inFrame_of_byte_iff (s : State) (v : Byte) :
    (if s.faState ≠ .inFrame ∧ v = sfdByte then FaState.inFrame else s.faState) = .inFrame ↔
      s.faState = .inFrame ∨ v = 0xD5 := by
  by_cases hf : s.faState = .inFrame
  · simp [hf]
  · by_cases hv : v = sfdByte
    · simp [hf, hv, sfdByte]
    · simp only [hf, hv, ne_eq, not_false_eq_true, and_false, if_false, false_or, false_iff]
      exact hv

/-- The fourth dibit of a byte, at an edge: its byte is the FrameAssembler's one event, and a close that follows shows the frame's counts with that byte. -/
theorem effect_fourth_dibit {s : State} {i : Index} (hf : s.faState = .preamble ∨ s.faState = .inFrame)
    (ha : s.accCount = 3) (hp : s.havePrev = true) (hc : s.prevClk = false) (hi : s.lastIdx < i) (q : Dibit) :
    ∃ t, Effect s (.sample true true q i) t ∧
      t.out.filter Event.isFrameAssembler = [.byteDecoded s.accFirstIdx i (q ++ s.accBits) s.frameStartIdx] ∧
      (t.faState = .preamble ∨ t.faState = .inFrame) ∧ t.accCount = 0 ∧ t.byteCount ≠ 0 ∧ t.lastIdx = i ∧
      ∀ last, t.frameEndEvent .completeAligned last =
        .frameEnd s.frameStartIdx last .completeAligned 0 0
          (if s.byteCount = 0xFFFFFFFF then 0xFFFFFFFF else s.byteCount + 1)
          (if s.faState = .preamble then s.bodyCount
            else if s.bodyCount = 0xFFFFFFFF then 0xFFFFFFFF else s.bodyCount + 1)
          (decide (s.faState = .inFrame ∨ q ++ s.accBits = 0xD5#8)) := by
  refine ⟨_, .byte true q i (State.accepted_of_lt hi) (State.edge_of hp hc) hf ha, ?_,
    open_cases_of_byte hf _, rfl, satInc_ne_zero _, rfl, fun last => ?_⟩
  · rw [List.filter_append, edgeEvents_frameAssembler]
    rfl
  · simp only [State.frameEndEvent, State.sfdSeen_eq, inFrame_of_byte_iff, State.preamble_iff_of_open hf, ite_not,
      ← satInc_eq]
    rfl

/-- A low sample and the deassertion of a frame at a byte boundary: its FrameEnd is CompleteAligned. -/
theorem run_low_close {s : State} {j i : Index} (hf : s.faState = .preamble ∨ s.faState = .inFrame)
    (ha : s.accCount = 0) (hb : s.byteCount ≠ 0) (hj : s.lastIdx < j) (hi : j < i) (c : Bool) (x y : Dibit) :
    ∃ t evs, runCommands s [.sample false c x j, .sample true false y i] = .next (t, evs) ∧
      evs.filter Event.isFrameAssembler = [s.frameEndEvent .completeAligned i] ∧
      t.faState = .idle ∧ t.lastIdx = i := by
  refine ⟨_, _, runCommands_cons_effect (effect_low s c x j (State.accepted_of_lt hj)) (runCommands_cons_effect
    (.closed true y i (State.accepted_of_lt hi) (State.edge_of rfl rfl) hf) rfl), ?_, rfl, rfl⟩
  simp only [List.nil_append, List.append_nil, List.filter_append, edgeEvents_frameAssembler,
    deassertEvents_frameAssembler]
  exact congrArg (fun status => [s.frameEndEvent status i]) (State.classifyStatus_at_boundary ha hb)

/-- A low sample and an edge with CTRL = 1 at an idle assembler: a frame starts there. -/
theorem run_low_open {s : State} {j i : Index} (hf : s.faState = .idle) (hj : s.lastIdx < j) (hi : j < i)
    (c : Bool) (x z : Dibit) :
    ∃ t evs, runCommands s [.sample false c x j, .sample true true z i] = .next (t, evs) ∧
      evs.filter Event.isFrameAssembler = [.frameStart i] ∧
      t.faState = .preamble ∧ t.accCount = 1 ∧ t.frameStartIdx = i := by
  refine ⟨_, _, runCommands_cons_effect (effect_low s c x j (State.accepted_of_lt hj)) (runCommands_cons_effect
    (.opened true z i (State.accepted_of_lt hi) (State.edge_of rfl rfl) hf) rfl), ?_, rfl, rfl, rfl⟩
  simp only [List.nil_append, List.append_nil, List.filter_append, edgeEvents_frameAssembler]
  rfl

/-- Settles O59: the first edge completes the byte, so the close at the second finds a byte and no residual, and the third edge finds the assembler idle. -/
theorem dibitConsumedBeforeDeassertion : Obligations.DibitConsumedBeforeDeassertion := by
  unfold Obligations.DibitConsumedBeforeDeassertion
  intro s q y z x1 x2 c1 c2 i0 j1 i1 j2 i2 hf ha hp hc h0 hj1 h1 hj2 h2
  obtain ⟨t0, hbyte, hshow0, hopen, hempty, hcounted, hlast0, hend⟩ := effect_fourth_dibit hf ha hp hc h0 q
  obtain ⟨t1, evs1, hrun1, hshow1, hidle, hlast1⟩ := run_low_close hopen hempty hcounted (hlast0 ▸ hj1) h1 c1 x1 y
  obtain ⟨t2, evs2, hrun2, hshow2, hregs⟩ := run_low_open hidle (hlast1 ▸ hj2) h2 c2 x2 z
  refine ⟨t2, _, runCommands_cons_effect hbyte (runCommands_append hrun1 hrun2), ?_, hregs⟩
  show List.filter Event.isFrameAssembler _ = _
  rw [List.filter_append, List.filter_append, hshow0, hshow1, hshow2, hend]
  rfl

end Sys2Proof.Machine
